-- ==== Sys2Proof/Word.lean ====
section
/-! DEFINITION. The two value types of the codec (00_scope.md R7, R9): the `u8` byte of every frame field and the `u16` word of every register, address, count and CRC. -/

namespace Sys2Proof

/-- `u8`: one byte of a frame (R7 `BYTE_WIDTH`, R9). -/
abbrev Byte := BitVec 8

/-- `u16`: a register value, an address, a count or a CRC (R7 `REG_WIDTH`, `CRC_WIDTH`, R9). -/
abbrev Word := BitVec 16

end Sys2Proof
end

