-- ==== Sys2Proof/Config.lean ====
section
/-! DEFINITION. The parameters of the codec (00_scope.md R7, R8). All of them are constants: the codec has no configuration register (10_state.md R31) and the spec leaves no parameter open (R8), so there is no free value here. -/

namespace Sys2Proof.Config

/-- `POLY`, the CRC polynomial as the source writes it (R7). -/
def crcPoly : Word := 0x8005#16

/-- `POLY_REFLECTED`, `POLY` read right to left (R7). -/
def crcPolyReflected : Word := 0xA001#16

/-- `CRC_INIT` (R7). -/
def crcInit : Word := 0xFFFF#16

/-- `CRC_XOROUT`: "no final XOR" (R7). -/
def crcXorOut : Word := 0x0000#16

/-- The read half of `FC_SET` (R7, R13). -/
def readFunctions : List Byte := [0x01#8, 0x02#8, 0x03#8]

/-- The write half of `FC_SET` (R7, R13). -/
def writeFunctions : List Byte := [0x05#8, 0x06#8]

/-- `REQ_LEN`: bytes of a request frame (R7). -/
def reqLen : Nat := 8

/-- Bytes of a request header, the argument of `ENC` (30_encoding.md R61, R74). -/
def headerLen : Nat := 6

/-- `RD_RSP_MIN`: bytes of the shortest read response, `3 + 0 + 2` (R7, R68). -/
def rdRspMin : Nat := 5

/-- `WR_RSP_LEN`: bytes of a write response (R7, R64). -/
def wrRspLen : Nat := 8

/-- `DATA_MAX`: the largest `byte_count`, and the number of bytes of `DATA` (R8, 10_state.md R20). -/
def dataMax : Nat := 255

/-- `RX_MAX`: bytes of the longest response that can be accepted (R8, R68). -/
def rxMax : Nat := 260

end Sys2Proof.Config
end

