-- ==== Sys2Proof/Syntax.lean ====
section
/-! DEFINITION. The commands of the codec: the pair `(cmd, arg)` a host presents (30_encoding.md R65) and the instructions of spec/opcode_table.json, one constructor a row. -/

namespace Sys2Proof

/-- `F-CMD`, what the host presents at one step: a 4-bit code and a finite byte sequence (30_encoding.md R65, R73). -/
structure Command where
  /-- The command code (R74). -/
  cmd : BitVec 4
  /-- The argument bytes, index 0 first (R73). -/
  arg : List Byte
deriving DecidableEq, Repr

/-- The instructions: one constructor per row of spec/opcode_table.json.
The six rows of format `F-REQ` carry the operands of their syntax line (R76).
The sixteen rows of format `F-CMD` carry the argument bytes exactly as they are presented, because
a fixed-length code with an argument of another length is a command too, with a meaning of its own (R75). -/
inductive Instr where
  /-- `ENC.RDC s, a, n`: function 0x01 request, read bits (41_encode.md R111). -/
  | encRdc (slave : Byte) (addr count : Word)
  /-- `ENC.RDI s, a, n`: function 0x02 request, read bits (R112). -/
  | encRdi (slave : Byte) (addr count : Word)
  /-- `ENC.RDH s, a, n`: function 0x03 request, read holding registers (R113). -/
  | encRdh (slave : Byte) (addr count : Word)
  /-- `ENC.WRB s, a, v`: function 0x05 request, write single bit (R114). -/
  | encWrb (slave : Byte) (addr value : Word)
  /-- `ENC.WRR s, a, v`: function 0x06 request, write single register (R115). -/
  | encWrr (slave : Byte) (addr value : Word)
  /-- `ENC.RAW h0 h1 h2 h3 h4 h5`: six header bytes, used to write down unsupported function codes (R116, R76). -/
  | encRaw (h0 h1 h2 h3 h4 h5 : Byte)
  /-- `CRC.INIT`, code 0x1 (40_crc.md R93). -/
  | crcInit (arg : List Byte)
  /-- `CRC.BYTE b`, code 0x2 (R94). -/
  | crcByte (arg : List Byte)
  /-- `CRC.BLOCK b0 b1 ...`, code 0x3 (R95). -/
  | crcBlock (bytes : List Byte)
  /-- `CRC.CHECK b0 b1 ...`, code 0x4 (R96). -/
  | crcCheck (frame : List Byte)
  /-- `ENC`, code 0x5 with whatever argument (R110, R74): the row that the five requests and `ENC.RAW` are forms of. -/
  | enc (arg : List Byte)
  /-- `DEC b0 b1 ...`, code 0x6 (42_decode.md R130). -/
  | dec (rx : List Byte)
  /-- `GET.REG i`, code 0x7 (43_typed_access.md R150). -/
  | getReg (arg : List Byte)
  /-- `GET.BIT i`, code 0x8 (R151). -/
  | getBit (arg : List Byte)
  /-- Reserved code 0x0 (30_encoding.md R75). -/
  | reserved0 (arg : List Byte)
  /-- Reserved code 0x9 (R75). -/
  | reserved9 (arg : List Byte)
  /-- Reserved code 0xA (R75). -/
  | reservedA (arg : List Byte)
  /-- Reserved code 0xB (R75). -/
  | reservedB (arg : List Byte)
  /-- Reserved code 0xC (R75). -/
  | reservedC (arg : List Byte)
  /-- Reserved code 0xD (R75). -/
  | reservedD (arg : List Byte)
  /-- Reserved code 0xE (R75). -/
  | reservedE (arg : List Byte)
  /-- Reserved code 0xF (R75). -/
  | reservedF (arg : List Byte)
deriving DecidableEq, Repr

end Sys2Proof
end

