-- ==== Sys2Proof/Machine/State.lean ====
section
/-! DEFINITION. The state of the codec: the seven registers of 10_state.md R20, which of them hold no value (R36), and the commands the host has presented and the codec has not begun; the outcomes of a command (60_exceptions.md R182, R184); the reset state (R35). -/

namespace Sys2Proof.Machine

/-- An eight-byte request frame in the format `F-REQ` (30_encoding.md R61), the content of `TXBUF`: field by field in wire order. -/
structure Frame where
  /-- `TXBUF[0]`. -/
  slave : Byte
  /-- `TXBUF[1]`, which chooses the path of a later `DEC` (10_state.md R32). -/
  function : Byte
  /-- `TXBUF[2]`. -/
  addrHi : Byte
  /-- `TXBUF[3]`. -/
  addrLo : Byte
  /-- `TXBUF[4]`. -/
  cvHi : Byte
  /-- `TXBUF[5]`. -/
  cvLo : Byte
  /-- `TXBUF[6]`, the low byte of the CRC (20_memory.md R44). -/
  crcLo : Byte
  /-- `TXBUF[7]`, the high byte of the CRC. -/
  crcHi : Byte
deriving DecidableEq, Repr

/-- What the host may read, one register or one byte of a buffer register (10_state.md R34). -/
inductive HostReg where
  | crc
  | txbuf (k : Fin 8)
  | txvalid
  | data (k : Fin 255)
  | dlen
  | status
  | res
deriving DecidableEq, Repr

/-- How a command ends: success, the four error kinds of the source (60_exceptions.md R182) and the
four refusal kinds of the spec (R184). Each is an ordinary result recorded in `STATUS`, never a stop of
the machine (00_scope.md R18). -/
inductive Status where
  | ok
  | timeoutError
  | crcError
  | shortFrameError
  | echoMismatchError
  | unsupportedFunction
  | noRequest
  | illegalCommand
  | indexRange
deriving DecidableEq, Repr

/-- Why the machine stops with a fault. No command raises one. -/
inductive Fault where
  /-- Raised by a host read (`hostRead`) of a register or buffer byte that holds no value (10_state.md R36,
  00_scope.md R18). Safe: the spec gives such a read no value, and the model gives none. -/
  | noValue (r : HostReg)
deriving DecidableEq, Repr

/-- Why the machine refuses an instruction. -/
inductive Refusal where
  /-- An instruction that has no meaning yet, by its mnemonic. No arm of `exec` answers it any more. Safe. -/
  | notModelled (mnemonic : String)
deriving DecidableEq, Repr

/-- The state: the seven registers of R20, the two marks that say whether `TXBUF` and `RES` hold a value
(R36), and the model's own input, the commands presented by the host (00_scope.md R17; log entry 1). -/
structure State where
  /-- `CRC`, the CRC accumulator (R23). -/
  crc : Word
  /-- `TXBUF`, the last request frame built (R24). -/
  txbuf : Frame
  /-- `TXBUF` holds a value: some `ENC` has succeeded (R36). -/
  txbufHeld : Bool
  /-- `TXVALID`: the request in `TXBUF` is pending (R25). -/
  txvalid : Bool
  /-- `DATA`, index 0 first (R26). The bytes written so far, at most 255; a byte past the end of the list
  has never been written (DESIGN CHOICE, log entry 3). Only the bytes below `DLEN` hold a value (R36). -/
  data : List Byte
  /-- `DLEN`: how many bytes of `DATA` are valid (R27). -/
  dlen : Byte
  /-- `STATUS`: the code of the last command's outcome (R28). -/
  status : BitVec 4
  /-- `RES`: the value fetched by the last successful `GET` (R29). -/
  res : Word
  /-- `RES` holds a value: some `GET` has succeeded (R36). -/
  resHeld : Bool
  /-- The commands the host has presented and the codec has not begun, the next one first (R22).
  The model's own field: to the spec the command is an input of the step (00_scope.md R17). -/
  port : List Command
deriving DecidableEq, Repr

/-- The state after reset (10_state.md R35, 70_reset_and_hazards.md R210).
`TXBUF`, `DATA` and `RES` hold no value (R36): the zeros standing in `txbuf` and `res` are DESIGN CHOICE
(log entry 2), no host read returns them and no command reads them. No command is presented. -/
def State.reset : State where
  crc := Config.crcInit
  txbuf := ⟨0x00#8, 0x00#8, 0x00#8, 0x00#8, 0x00#8, 0x00#8, 0x00#8, 0x00#8⟩
  txbufHeld := false
  txvalid := false
  data := []
  dlen := 0x00#8
  status := 0x0#4
  res := 0x0000#16
  resHeld := false
  port := []

/-- What a host's `XFER` brings back (43_typed_access.md R153): the received bytes, or the transport's own
failure, after which there are no bytes to decode (60_exceptions.md R183). -/
inductive Transfer where
  /-- Any finite byte sequence, the empty one included (00_scope.md R16). -/
  | received (rx : List Byte)
  /-- `TransportError`. -/
  | transportError
deriving DecidableEq, Repr

/-- The result of a typed operation (43_typed_access.md R152): a value, or one error kind and no value. -/
inductive Result (α : Type) where
  | value (v : α)
  /-- An error kind, by its code (60_exceptions.md R182, R184). -/
  | error (code : BitVec 4)
  /-- `TransportError`, a kind of the transport that has no `STATUS` code (60_exceptions.md R183; log entry 6). -/
  | transportError
deriving DecidableEq, Repr

end Sys2Proof.Machine
end

