-- ==== Sys2Proof/Machine/Flags.lean ====
section
/-! DEFINITION. The outcome codes. The codec has no arithmetic flags; `STATUS` is its only outcome indicator (10_state.md R30), so this file holds the code of every outcome and nothing else. -/

namespace Sys2Proof.Machine

/-- The code of an outcome in `STATUS` (60_exceptions.md R182, R184). Codes 9 to 15 do not occur. -/
def statusCode : Status → BitVec 4
  | .ok => 0#4
  | .timeoutError => 1#4
  | .crcError => 2#4
  | .shortFrameError => 3#4
  | .echoMismatchError => 4#4
  | .unsupportedFunction => 5#4
  | .noRequest => 6#4
  | .illegalCommand => 7#4
  | .indexRange => 8#4

end Sys2Proof.Machine
end

