-- ==== Sys2Proof/Decode.lean ====
section
/-! DEFINITION. The two encodings of 30_encoding.md: the byte-order helpers, the decoder of the command port (total: every pair is a command of some row, so nothing is rejected there), its encoder, the assembler lines of R76, and the reading of a word of spec/opcode_table.json. -/

namespace Sys2Proof

/-- `hi8(v) = v[15:8]` (00_scope.md R10). -/
def hi8 (v : Word) : Byte := v.extractLsb' 8 8

/-- `lo8(v) = v[7:0]` (R10). -/
def lo8 (v : Word) : Byte := v.extractLsb' 0 8

/-- `{hi, lo}`: a `u16` from two bytes, the first the more significant (R10). -/
def be16 (hi lo : Byte) : Word := hi ++ lo

/-- The argument length of a command code, `none` where R74 says "any". -/
def argLen (cmd : BitVec 4) : Option Nat :=
  match cmd.toNat with
  | 1 => some 0
  | 2 => some 1
  | 5 => some Config.headerLen
  | 7 => some 1
  | 8 => some 2
  | _ => none

/-- A reserved command code (R75). -/
def isReservedCode (cmd : BitVec 4) : Bool := cmd.toNat == 0 || 9 ≤ cmd.toNat

/-- Code 0x5: the function byte `arg[1]` selects the instruction (R69), any other function is `ENC.RAW` (R116). -/
def decodeEnc (arg : List Byte) : Instr :=
  match arg with
  | [h0, h1, h2, h3, h4, h5] =>
    if h1 = 0x01#8 then .encRdc h0 (be16 h2 h3) (be16 h4 h5)
    else if h1 = 0x02#8 then .encRdi h0 (be16 h2 h3) (be16 h4 h5)
    else if h1 = 0x03#8 then .encRdh h0 (be16 h2 h3) (be16 h4 h5)
    else if h1 = 0x05#8 then .encWrb h0 (be16 h2 h3) (be16 h4 h5)
    else if h1 = 0x06#8 then .encWrr h0 (be16 h2 h3) (be16 h4 h5)
    else .encRaw h0 h1 h2 h3 h4 h5
  | _ => .enc arg

/-- The instruction a command is (R74). Total: reserved codes and wrong argument lengths are instructions
whose meaning is `IllegalCommand` (R75). The last arm is code 0xF, the one 4-bit code left. -/
def decode (c : Command) : Instr :=
  match c.cmd.toNat with
  | 0 => .reserved0 c.arg
  | 1 => .crcInit c.arg
  | 2 => .crcByte c.arg
  | 3 => .crcBlock c.arg
  | 4 => .crcCheck c.arg
  | 5 => decodeEnc c.arg
  | 6 => .dec c.arg
  | 7 => .getReg c.arg
  | 8 => .getBit c.arg
  | 9 => .reserved9 c.arg
  | 10 => .reservedA c.arg
  | 11 => .reservedB c.arg
  | 12 => .reservedC c.arg
  | 13 => .reservedD c.arg
  | 14 => .reservedE c.arg
  | _ => .reservedF c.arg

/-- The six header bytes of a request in wire order, 16-bit fields high byte first (R61, R66, 20_memory.md R43). -/
def headerBytes (slave function : Byte) (addr cv : Word) : List Byte :=
  [slave, function, hi8 addr, lo8 addr, hi8 cv, lo8 cv]

/-- The command that an instruction is written as (R76). -/
def encode : Instr → Command
  | .encRdc slave addr count => ⟨0x5#4, headerBytes slave 0x01#8 addr count⟩
  | .encRdi slave addr count => ⟨0x5#4, headerBytes slave 0x02#8 addr count⟩
  | .encRdh slave addr count => ⟨0x5#4, headerBytes slave 0x03#8 addr count⟩
  | .encWrb slave addr value => ⟨0x5#4, headerBytes slave 0x05#8 addr value⟩
  | .encWrr slave addr value => ⟨0x5#4, headerBytes slave 0x06#8 addr value⟩
  | .encRaw h0 h1 h2 h3 h4 h5 => ⟨0x5#4, [h0, h1, h2, h3, h4, h5]⟩
  | .crcInit arg => ⟨0x1#4, arg⟩
  | .crcByte arg => ⟨0x2#4, arg⟩
  | .crcBlock bytes => ⟨0x3#4, bytes⟩
  | .crcCheck frame => ⟨0x4#4, frame⟩
  | .enc arg => ⟨0x5#4, arg⟩
  | .dec rx => ⟨0x6#4, rx⟩
  | .getReg arg => ⟨0x7#4, arg⟩
  | .getBit arg => ⟨0x8#4, arg⟩
  | .reserved0 arg => ⟨0x0#4, arg⟩
  | .reserved9 arg => ⟨0x9#4, arg⟩
  | .reservedA arg => ⟨0xA#4, arg⟩
  | .reservedB arg => ⟨0xB#4, arg⟩
  | .reservedC arg => ⟨0xC#4, arg⟩
  | .reservedD arg => ⟨0xD#4, arg⟩
  | .reservedE arg => ⟨0xE#4, arg⟩
  | .reservedF arg => ⟨0xF#4, arg⟩

/-- The lines `CRC.INIT`, `CRC.BYTE b`, `GET.REG i` and `GET.BIT i` of R76: the argument bytes of the
fixed-length commands from their operands. The other lines of R76 are the constructors themselves. -/
def asmCrcInit : Instr := .crcInit []

/-- `CRC.BYTE b` (R76). -/
def asmCrcByte (b : Byte) : Instr := .crcByte [b]

/-- `GET.REG i`, `0 <= i <= 255` (R76). -/
def asmGetReg (i : Byte) : Instr := .getReg [i]

/-- `GET.BIT i`: the 16-bit index high byte first (R73, R76). -/
def asmGetBit (i : Word) : Instr := .getBit [hi8 i, lo8 i]

/-- The command a word of spec/opcode_table.json stands for.
A row of format `F-REQ` has 64 bits, the frame as the number `W` of 00_scope.md R11 with byte 0 in
`W[63:56]`: the command is `ENC` of its six header bytes, and `W[15:0]`, the CRC "computed by the codec,
not an operand", is not looked at.
A row of format `F-CMD` has 4 bits (8 in whole bytes), the code in bits 3 to 0; its operand bits are all
zero, so the argument is the shortest one the code allows, all zeros.
No other width occurs in the table (DEDUCED, log entry 4). -/
def tableCommand (nbits w : Nat) : Option Command :=
  if nbits = 64 then
    let bits : BitVec 64 := BitVec.ofNat 64 w
    some ⟨0x5#4, [bits.extractLsb' 56 8, bits.extractLsb' 48 8, bits.extractLsb' 40 8,
      bits.extractLsb' 32 8, bits.extractLsb' 24 8, bits.extractLsb' 16 8]⟩
  else if nbits = 4 ∨ nbits = 8 then
    let code : BitVec 4 := BitVec.ofNat 4 w
    some ⟨code, List.replicate ((argLen code).getD 0) 0x00#8⟩
  else none

/-- What the decoder reads from a word of spec/opcode_table.json. -/
def decodeTableWord (nbits w : Nat) : Option Instr := (tableCommand nbits w).map decode

end Sys2Proof
end

