-- ==== Sys2Proof/Machine/Operands.lean ====
section
/-! DEFINITION. Operand assembly: the function-code predicates (00_scope.md R13), the fields of a received frame (30_encoding.md R62, R63, R67), the byte view of `TXBUF` (R61) and the register and bit view of `DATA` (20_memory.md R45, R46). -/

namespace Sys2Proof.Machine

/-- `is_read_fc` (R13): functions 0x01, 0x02, 0x03. -/
def isReadFc (x : Byte) : Bool := x == 0x01#8 || x == 0x02#8 || x == 0x03#8

/-- `is_write_fc` (R13): functions 0x05, 0x06. -/
def isWriteFc (x : Byte) : Bool := x == 0x05#8 || x == 0x06#8

/-- `is_fc` (R13): the functions the codec supports. -/
def isFc (x : Byte) : Bool := isReadFc x || isWriteFc x

/-- `f[k]` (00_scope.md R11). Every use has `k < len(f)`; past the end it is 0x00, which no rule reads (DESIGN CHOICE,
log entry 3). -/
def byteAt (f : List Byte) (k : Nat) : Byte := f.getD k 0x00#8

/-- `f[0 .. L-3]`: the bytes of a frame that its CRC covers (R63). -/
def crcCovered (f : List Byte) : List Byte := f.take (f.length - 2)

/-- `{f[L-1], f[L-2]}`: the CRC a frame carries, low byte first on the wire (R63, R67, 20_memory.md R44). -/
def receivedCrc (f : List Byte) : Word := be16 (byteAt f (f.length - 1)) (byteAt f (f.length - 2))

/-- `rx[2]`, the `byte_count` of a read response (R62, R67). -/
def byteCount (rx : List Byte) : Byte := byteAt rx 2

/-- `rx[3 .. 2+n]`, the `data` field of a read response with `byte_count = n` (R62). -/
def payload (rx : List Byte) : List Byte := (rx.drop 3).take (byteCount rx).toNat

/-- `TXBUF[0 .. 5]`, the header (R61). -/
def frameHeader (f : Frame) : List Byte := [f.slave, f.function, f.addrHi, f.addrLo, f.cvHi, f.cvLo]

/-- `TXBUF[0 .. 7]` in wire order (R61). -/
def frameBytes (f : Frame) : List Byte :=
  [f.slave, f.function, f.addrHi, f.addrLo, f.cvHi, f.cvLo, f.crcLo, f.crcHi]

/-- `DATA[k]`. A command reads it only for `k < DLEN` (10_state.md R36), where it has been written. -/
def dataByte (s : State) (k : Nat) : Byte := byteAt s.data k

/-- Register `i` of the data: `{DATA[2i], DATA[2i+1]}`, high byte first (20_memory.md R45). -/
def dataRegister (s : State) (i : Nat) : Word := be16 (dataByte s (2 * i)) (dataByte s (2 * i + 1))

/-- Bit `i` of the data: bit `i mod 8` of `DATA[i div 8]` (20_memory.md R46). -/
def dataBit (s : State) (i : Nat) : Bool := (dataByte s (i / 8)).getLsbD (i % 8)

/-- A `bit` widened to a `u16` with zeros on top (43_typed_access.md R151). -/
def bitWord (b : Bool) : Word := if b then 0x0001#16 else 0x0000#16

end Sys2Proof.Machine
end

