-- ==== Sys2Proof/Machine/Ops.lean ====
section
/-! DEFINITION. The named operations of the machine: register writes, the two ways a command ends (60_exceptions.md R190: `raise`, `refuse` and `ok`), the CRC function and the frame check (40_crc.md R90 to R92), and the command port. There is no return from an error to model: the next command runs as after a success (R191). The codec has no memory (20_memory.md R40). -/

namespace Sys2Proof.Machine

/-- `CRC <- c`. -/
def writeCrc (c : Word) (s : State) : State := { s with crc := c }

/-- `TXBUF[0 .. 7] <- f`; from then on it holds a value (10_state.md R36). -/
def writeTxbuf (f : Frame) (s : State) : State := { s with txbuf := f, txbufHeld := true }

/-- `TXVALID <- b`. -/
def writeTxvalid (b : Bool) (s : State) : State := { s with txvalid := b }

/-- `DATA[0 .. n-1] <- bytes`, with `n` the number of bytes; the bytes from `n` on stay as they are. -/
def writeData (bytes : List Byte) (s : State) : State := { s with data := bytes ++ s.data.drop bytes.length }

/-- `DLEN <- n`. -/
def writeDlen (n : Byte) (s : State) : State := { s with dlen := n }

/-- `STATUS <- code`. -/
def writeStatus (code : BitVec 4) (s : State) : State := { s with status := code }

/-- `RES <- v`; from then on it holds a value (10_state.md R36). -/
def writeRes (v : Word) (s : State) : State := { s with res := v, resHeld := true }

/-- Error entry, `raise Kind` and `refuse Kind` alike: the code goes to `STATUS`, nothing is saved, and the
command ends (60_exceptions.md R190). -/
def raise (kind : Status) (s : State) : State := writeStatus (statusCode kind) s

/-- `ok`: `STATUS <- 0` and the command ends (00_scope.md R12). -/
def complete (s : State) : State := writeStatus (statusCode .ok) s

/-- `refuse IllegalCommand`: a reserved code or a wrong argument length (30_encoding.md R75). -/
def illegalCommand (s : State) : State := raise .illegalCommand s

/-- One iteration of the loop of R90 (the spec's reading of "reflected", log entry 11): shift right by one, and XOR the reflected polynomial when the bit
shifted out was 1. -/
def crcShift (c : Word) : Word :=
  if c.getLsbD 0 then (c >>> 1) ^^^ Config.crcPolyReflected else c >>> 1

/-- `repeat n times` of R90. -/
def crcShifts : Nat → Word → Word
  | 0, c => c
  | n + 1, c => crcShifts n (crcShift c)

/-- `crc_step(c, b)` (40_crc.md R90): the byte meets the low half of `c`, then eight shifts. -/
def crcStep (c : Word) (b : Byte) : Word := crcShifts 8 (c ^^^ b.setWidth 16)

/-- The accumulator after the bytes of `s`, in index order, starting from `c` (R91, R97). -/
def crcFrom (c : Word) (s : List Byte) : Word := s.foldl crcStep c

/-- `crc16(s)` (40_crc.md R91): from the initial value, no final XOR. -/
def crc16 (s : List Byte) : Word := crcFrom Config.crcInit s ^^^ Config.crcXorOut

/-- `crc_ok(f)`, the frame check for `len(f) >= 2` (40_crc.md R92): recompute and compare. -/
def crcOk (f : List Byte) : Bool := crc16 (crcCovered f) == receivedCrc f

/-- The two CRC bytes of a frame in wire order, low byte first (30_encoding.md R63). -/
def crcBytes (c : Word) : List Byte := [lo8 c, hi8 c]

/-- The request frame of a header: the header copied unchanged and its CRC (41_encode.md R110, R61). -/
def requestFrame (slave function addrHi addrLo cvHi cvLo : Byte) : Frame :=
  let c := crc16 [slave, function, addrHi, addrLo, cvHi, cvLo]
  ⟨slave, function, addrHi, addrLo, cvHi, cvLo, lo8 c, hi8 c⟩

/-- The semantics common to every `ENC` with a six-byte argument (41_encode.md R110, R116). -/
def encodeRequest (slave function addrHi addrLo cvHi cvLo : Byte) (s : State) : State :=
  if isFc function then
    let c := crc16 [slave, function, addrHi, addrLo, cvHi, cvLo]
    complete (writeCrc c (writeTxvalid true
      (writeTxbuf (requestFrame slave function addrHi addrLo cvHi cvLo) s)))
  else raise .unsupportedFunction s

/-- `ENC` of the operands of a syntax line: slave, function, 16-bit address, 16-bit count or value
(R111 to R115; 16-bit fields high byte first, 20_memory.md R43). -/
def encodeOperands (slave function : Byte) (addr cv : Word) (s : State) : State :=
  encodeRequest slave function (hi8 addr) (lo8 addr) (hi8 cv) (lo8 cv) s

/-- The read path of `DEC` (42_decode.md R131): length, then CRC, then delivery of `data`. -/
def readPath (rx : List Byte) (s : State) : State :=
  if rx.length = 0 then raise .timeoutError (writeDlen 0x00#8 s)
  else if rx.length < Config.rdRspMin then raise .shortFrameError (writeDlen 0x00#8 s)
  else if rx.length ≠ Config.rdRspMin + (byteCount rx).toNat then
    raise .shortFrameError (writeDlen 0x00#8 s)
  else
    let c := crc16 (crcCovered rx)
    if c = receivedCrc rx then
      complete (writeDlen (byteCount rx) (writeData (payload rx) (writeCrc c s)))
    else raise .crcError (writeDlen 0x00#8 (writeCrc c s))

/-- The write path of `DEC` (42_decode.md R132): length, then CRC, then echo of the six header bytes. -/
def writePath (rx : List Byte) (s : State) : State :=
  if rx.length = 0 then raise .timeoutError (writeDlen 0x00#8 s)
  else if rx.length ≠ Config.wrRspLen then raise .shortFrameError (writeDlen 0x00#8 s)
  else
    let c := crc16 (crcCovered rx)
    if c = receivedCrc rx then
      if rx.take Config.headerLen = frameHeader s.txbuf then complete (writeDlen 0x00#8 (writeCrc c s))
      else raise .echoMismatchError (writeDlen 0x00#8 (writeCrc c s))
    else raise .crcError (writeDlen 0x00#8 (writeCrc c s))

/-- `DEC` (42_decode.md R130): refused without a pending request; otherwise the request stops pending,
whatever follows, and its function code chooses the path: the write path for every function that is no read
function (DEDUCED, log entry 10). -/
def decodeResponse (rx : List Byte) (s : State) : State :=
  if s.txvalid then
    if isReadFc s.txbuf.function then readPath rx (writeTxvalid false s)
    else writePath rx (writeTxvalid false s)
  else raise .noRequest s

/-- `GET.REG i` (43_typed_access.md R150); lengths are natural numbers, never wrapped (40_crc.md R101). -/
def fetchRegister (i : Nat) (s : State) : State :=
  if s.dlen.toNat ≤ 2 * i + 1 then raise .indexRange s
  else complete (writeRes (dataRegister s i) s)

/-- `GET.BIT i` (43_typed_access.md R151). -/
def fetchBit (i : Nat) (s : State) : State :=
  if s.dlen.toNat ≤ i / 8 then raise .indexRange s
  else complete (writeRes (bitWord (dataBit s i)) s)

/-- The host presents a command, to be the next one the codec executes (30_encoding.md R65). -/
def presentCommand (c : Command) (s : State) : State := { s with port := c :: s.port }

/-- The next command the host has presented, and the state in which it is executed; `none` when the host
has presented nothing. The codec fetches from nowhere else (20_memory.md R55). -/
def takeCommand (s : State) : Option (Command × State) :=
  match s.port with
  | [] => none
  | c :: rest => some (c, { s with port := rest })

end Sys2Proof.Machine
end

