-- ==== Sys2Proof/Machine/Access.lean ====
section
/-! DEFINITION. Typed access to accepted read data: `GET.REG` and `GET.BIT` (43_typed_access.md R150, R151). -/

namespace Sys2Proof.Machine

/-- `GET.REG i` (R150), one index byte. -/
def execGetReg (arg : List Byte) (s : State) : Host.Outcome State Fault Refusal :=
  match arg with
  | [i] => .next (fetchRegister i.toNat s)
  | _ => .next (illegalCommand s)

/-- `GET.BIT i` (R151), two index bytes, the high one first (30_encoding.md R73). -/
def execGetBit (arg : List Byte) (s : State) : Host.Outcome State Fault Refusal :=
  match arg with
  | [iHi, iLo] => .next (fetchBit (be16 iHi iLo).toNat s)
  | _ => .next (illegalCommand s)

end Sys2Proof.Machine
end

