-- ==== Sys2Proof/Machine/CrcCommands.lean ====
section
/-! DEFINITION. The CRC family: `CRC.INIT`, `CRC.BYTE`, `CRC.BLOCK`, `CRC.CHECK` (40_crc.md R93 to R96). -/

namespace Sys2Proof.Machine

/-- `CRC.INIT` (R93). -/
def execCrcInit (arg : List Byte) (s : State) : Host.Outcome State Fault Refusal :=
  match arg with
  | [] => .next (complete (writeCrc Config.crcInit s))
  | _ :: _ => .next (illegalCommand s)

/-- `CRC.BYTE b` (R94): continues from whatever `CRC` holds. A zero byte leaves 0x0000 as it is
(DEDUCED, log entry 7). -/
def execCrcByte (arg : List Byte) (s : State) : Host.Outcome State Fault Refusal :=
  match arg with
  | [b] => .next (complete (writeCrc (crcStep s.crc b) s))
  | _ => .next (illegalCommand s)

/-- `CRC.BLOCK s` (R95): starts from the initial value, not from the old `CRC`. -/
def execCrcBlock (bytes : List Byte) (s : State) : Host.Outcome State Fault Refusal :=
  .next (complete (writeCrc (crc16 bytes) s))

/-- `CRC.CHECK f` (R96): the computed CRC stays in `CRC` on both outcomes of the comparison. -/
def execCrcCheck (frame : List Byte) (s : State) : Host.Outcome State Fault Refusal :=
  if frame.length < 2 then .next (raise .shortFrameError s)
  else if crcOk frame then .next (complete (writeCrc (crc16 (crcCovered frame)) s))
  else .next (raise .crcError (writeCrc (crc16 (crcCovered frame)) s))

end Sys2Proof.Machine
end

