-- ==== Sys2Proof/Machine/Requests.lean ====
section
/-! DEFINITION. The request encoder family: `ENC`, its five requests and `ENC.RAW` (41_encode.md R110 to R116). -/

namespace Sys2Proof.Machine

/-- `ENC.RDC s, a, n` (R111). -/
def execEncRdc (slave : Byte) (addr count : Word) (s : State) : Host.Outcome State Fault Refusal :=
  .next (encodeOperands slave 0x01#8 addr count s)

/-- `ENC.RDI s, a, n` (R112). -/
def execEncRdi (slave : Byte) (addr count : Word) (s : State) : Host.Outcome State Fault Refusal :=
  .next (encodeOperands slave 0x02#8 addr count s)

/-- `ENC.RDH s, a, n` (R113). -/
def execEncRdh (slave : Byte) (addr count : Word) (s : State) : Host.Outcome State Fault Refusal :=
  .next (encodeOperands slave 0x03#8 addr count s)

/-- `ENC.WRB s, a, v` (R114): `v` is a raw field, any value is encoded. -/
def execEncWrb (slave : Byte) (addr value : Word) (s : State) : Host.Outcome State Fault Refusal :=
  .next (encodeOperands slave 0x05#8 addr value s)

/-- `ENC.WRR s, a, v` (R115). -/
def execEncWrr (slave : Byte) (addr value : Word) (s : State) : Host.Outcome State Fault Refusal :=
  .next (encodeOperands slave 0x06#8 addr value s)

/-- `ENC.RAW h0 h1 h2 h3 h4 h5` (R116): refused with `UnsupportedFunction` for the 251 codes it is there
to write down; any function byte may be written (30_encoding.md R76), and a supported one is an `ENC` (DEDUCED, log entry 8). -/
def execEncRaw (h0 h1 h2 h3 h4 h5 : Byte) (s : State) : Host.Outcome State Fault Refusal :=
  .next (encodeRequest h0 h1 h2 h3 h4 h5 s)

/-- `ENC` with its argument as presented (R110, R116; a wrong length, R75). -/
def execEnc (arg : List Byte) (s : State) : Host.Outcome State Fault Refusal :=
  match arg with
  | [h0, h1, h2, h3, h4, h5] => .next (encodeRequest h0 h1 h2 h3 h4 h5 s)
  | _ => .next (illegalCommand s)

end Sys2Proof.Machine
end

