-- ==== Sys2Proof/Machine/ReservedCodes.lean ====
section
/-! DEFINITION. The reserved command codes 0x0 and 0x9 to 0xF: each is `IllegalCommand`, whatever its argument (30_encoding.md R75). -/

namespace Sys2Proof.Machine

/-- Reserved code 0x0 (R75). -/
def execReserved0 (_arg : List Byte) (s : State) : Host.Outcome State Fault Refusal :=
  .next (illegalCommand s)

/-- Reserved code 0x9 (R75). -/
def execReserved9 (_arg : List Byte) (s : State) : Host.Outcome State Fault Refusal :=
  .next (illegalCommand s)

/-- Reserved code 0xA (R75). -/
def execReservedA (_arg : List Byte) (s : State) : Host.Outcome State Fault Refusal :=
  .next (illegalCommand s)

/-- Reserved code 0xB (R75). -/
def execReservedB (_arg : List Byte) (s : State) : Host.Outcome State Fault Refusal :=
  .next (illegalCommand s)

/-- Reserved code 0xC (R75). -/
def execReservedC (_arg : List Byte) (s : State) : Host.Outcome State Fault Refusal :=
  .next (illegalCommand s)

/-- Reserved code 0xD (R75). -/
def execReservedD (_arg : List Byte) (s : State) : Host.Outcome State Fault Refusal :=
  .next (illegalCommand s)

/-- Reserved code 0xE (R75). -/
def execReservedE (_arg : List Byte) (s : State) : Host.Outcome State Fault Refusal :=
  .next (illegalCommand s)

/-- Reserved code 0xF (R75). -/
def execReservedF (_arg : List Byte) (s : State) : Host.Outcome State Fault Refusal :=
  .next (illegalCommand s)

end Sys2Proof.Machine
end

