-- ==== Sys2Proof/Machine/Responses.lean ====
section
/-! DEFINITION. The response decoder `DEC` (42_decode.md R130 to R133). -/

namespace Sys2Proof.Machine

/-- `DEC rx` (R130), total over every byte sequence (00_scope.md R16). -/
def execDec (rx : List Byte) (s : State) : Host.Outcome State Fault Refusal :=
  .next (decodeResponse rx s)

end Sys2Proof.Machine
end

