-- ==== Sys2Proof/Machine/Dispatch.lean ====
section
/-! DEFINITION. The meaning of every instruction, one arm per constructor of `Instr`. -/

namespace Sys2Proof.Machine

def exec (i : Instr) (s : State) : Host.Outcome State Fault Refusal :=
  match i with
  | .encRdc a b c => Sys2Proof.Machine.execEncRdc a b c s
  | .encRdi a b c => Sys2Proof.Machine.execEncRdi a b c s
  | .encRdh a b c => Sys2Proof.Machine.execEncRdh a b c s
  | .encWrb a b c => Sys2Proof.Machine.execEncWrb a b c s
  | .encWrr a b c => Sys2Proof.Machine.execEncWrr a b c s
  | .encRaw a b c d e f => Sys2Proof.Machine.execEncRaw a b c d e f s
  | .crcInit a => Sys2Proof.Machine.execCrcInit a s
  | .crcByte a => Sys2Proof.Machine.execCrcByte a s
  | .crcBlock a => Sys2Proof.Machine.execCrcBlock a s
  | .crcCheck a => Sys2Proof.Machine.execCrcCheck a s
  | .enc a => Sys2Proof.Machine.execEnc a s
  | .dec a => Sys2Proof.Machine.execDec a s
  | .getReg a => Sys2Proof.Machine.execGetReg a s
  | .getBit a => Sys2Proof.Machine.execGetBit a s
  | .reserved0 a => Sys2Proof.Machine.execReserved0 a s
  | .reserved9 a => Sys2Proof.Machine.execReserved9 a s
  | .reservedA a => Sys2Proof.Machine.execReservedA a s
  | .reservedB a => Sys2Proof.Machine.execReservedB a s
  | .reservedC a => Sys2Proof.Machine.execReservedC a s
  | .reservedD a => Sys2Proof.Machine.execReservedD a s
  | .reservedE a => Sys2Proof.Machine.execReservedE a s
  | .reservedF a => Sys2Proof.Machine.execReservedF a s

end Sys2Proof.Machine
end

