-- ==== Sys2Proof/Machine/Step.lean ====
section
/-! DEFINITION. One step: the next command the host has presented is decoded and executed to completion (10_state.md R22, 20_memory.md R50). -/

namespace Sys2Proof.Machine

/-- One step of the codec. With no command presented the codec stays as it is: a register changes only through
a command (R31), and the codec is never stuck (00_scope.md R18; log entry 1). -/
def step (s : State) : Host.Outcome State Fault Refusal :=
  match takeCommand s with
  | none => .next s
  | some (c, rest) => exec (decode c) rest

/-- The state in which the very next step runs the instruction a word of spec/opcode_table.json stands for:
the host presents its command. Unchanged where the table has no row of that width. -/
def State.withFetchWord (s : State) (nbits w : Nat) : State :=
  match tableCommand nbits w with
  | some c => presentCommand c s
  | none => s

end Sys2Proof.Machine
end

