-- ==== Sys2Proof/Machine/Run.lean ====
section
/-! DEFINITION. A run: a finite command list chosen by the host (00_scope.md R19, 10_state.md R22), each command executed to completion before the next (20_memory.md R50). -/

namespace Sys2Proof.Machine

/-- Goes on with `f` from the answer of a step, stopping where the step stopped. -/
def andThen {α β : Type} (o : Host.Outcome α Fault Refusal) (f : α → Host.Outcome β Fault Refusal) :
    Host.Outcome β Fault Refusal :=
  match o with
  | .next a => f a
  | .fault r => .fault r
  | .refused r => .refused r

/-- The instructions of `is`, in order. -/
def runInstrs : List Instr → State → Host.Outcome State Fault Refusal
  | [], s => .next s
  | i :: is, s => andThen (exec i s) (runInstrs is)

/-- A run as it is observed (R19): the final state and the sequence of `STATUS` values, one a command. -/
def runCommands : List Command → State → Host.Outcome (State × List (BitVec 4)) Fault Refusal
  | [], s => .next (s, [])
  | c :: cs, s =>
    andThen (exec (decode c) s) fun s1 =>
      andThen (runCommands cs s1) fun r => .next (r.1, s1.status :: r.2)

end Sys2Proof.Machine
end

