-- ==== Sys2Proof/Machine/TypedOps.lean ====
section
/-! DEFINITION. The six pseudo-instructions (43_typed_access.md R152 to R160): what the host does, a fixed list of commands around one `XFER`, as functions of what the transport brings back. Each runs its exchange undivided; that no other command comes in between is the premise of 70_reset_and_hazards.md R216 (DESIGN CHOICE, log entry 9). -/

namespace Sys2Proof.Machine

/-- A host operation ends with a result and the codec's state. -/
abbrev HostOutcome (α : Type) := Host.Outcome (Result α × State) Fault Refusal

/-- `ENC`, `XFER`, `DEC` and the host's test of `STATUS` (R155 to R159). After a transport failure there is
nothing to decode and the request stays pending (60_exceptions.md R183). -/
def exchange {α : Type} (request : Instr) (t : Transfer) (s : State) (accepted : State → HostOutcome α) :
    HostOutcome α :=
  andThen (exec request s) fun s1 =>
    match t with
    | .transportError => .next (.transportError, s1)
    | .received rx =>
      andThen (exec (.dec rx) s1) fun s2 =>
        if s2.status = statusCode .ok then accepted s2 else .next (.error s2.status, s2)

/-- The count check of a typed read (R154): `DLEN` must be the expected `byte_count`, a natural number that
is not truncated; otherwise the result is `ShortFrameError` and `STATUS` stays as `DEC` left it. -/
def countChecked {α : Type} (expected : Nat) (fetch : State → HostOutcome α) (s : State) : HostOutcome α :=
  if s.dlen.toNat = expected then fetch s else .next (.error (statusCode .shortFrameError), s)

/-- `for i in ... : GET.REG i ; r[i] <- RES` (R156). -/
def fetchRegisters : List Nat → State → HostOutcome (List Word)
  | [], s => .next (.value [], s)
  | i :: is, s =>
    andThen (exec (asmGetReg (BitVec.ofNat 8 i)) s) fun s1 =>
      andThen (fetchRegisters is s1) fun r =>
        match r.1 with
        | .value vs => .next (.value (s1.res :: vs), r.2)
        | .error e => .next (.error e, r.2)
        | .transportError => .next (.transportError, r.2)

/-- `for i in ... : GET.BIT i ; b[i] <- (RES = 1)` (R158). -/
def fetchBits : List Nat → State → HostOutcome (List Bool)
  | [], s => .next (.value [], s)
  | i :: is, s =>
    andThen (exec (asmGetBit (BitVec.ofNat 16 i)) s) fun s1 =>
      andThen (fetchBits is s1) fun r =>
        match r.1 with
        | .value vs => .next (.value ((s1.res == 0x0001#16) :: vs), r.2)
        | .error e => .next (.error e, r.2)
        | .transportError => .next (.transportError, r.2)

/-- `READ_REGISTER s, a` (R155). -/
def readRegister (slave : Byte) (addr : Word) (t : Transfer) (s : State) : HostOutcome Word :=
  exchange (.encRdh slave addr 0x0001#16) t s <|
    countChecked 2 fun s2 => andThen (exec (asmGetReg 0x00#8) s2) fun s3 => .next (.value s3.res, s3)

/-- The bytes expected for `n` registers: `2 * n` (R154). -/
def registerBytes (n : Word) : Nat := 2 * n.toNat

/-- The bytes expected for `n` bits: `ceil8(n)` (R154, 00_scope.md R9). -/
def bitBytes (n : Word) : Nat := (n.toNat + 7) / 8

/-- `READ_REGISTERS s, a, n` (R156). -/
def readRegisters (slave : Byte) (addr n : Word) (t : Transfer) (s : State) : HostOutcome (List Word) :=
  exchange (.encRdh slave addr n) t s <|
    countChecked (registerBytes n) (fetchRegisters (List.range n.toNat))

/-- `WRITE_REGISTER s, a, v` (R157); `ack` is the value `()`. -/
def writeRegister (slave : Byte) (addr value : Word) (t : Transfer) (s : State) : HostOutcome Unit :=
  exchange (.encWrr slave addr value) t s fun s2 => .next (.value (), s2)

/-- `READ_BITS s, a, n, fc` (R158); another `fc` is `UnsupportedFunction` and no command is issued. -/
def readBits (slave : Byte) (addr n : Word) (fc : Byte) (t : Transfer) (s : State) : HostOutcome (List Bool) :=
  if fc = 0x01#8 then
    exchange (.encRdc slave addr n) t s <| countChecked (bitBytes n) (fetchBits (List.range n.toNat))
  else if fc = 0x02#8 then
    exchange (.encRdi slave addr n) t s <| countChecked (bitBytes n) (fetchBits (List.range n.toNat))
  else .next (.error (statusCode .unsupportedFunction), s)

/-- `WRITE_BIT s, a, state` (R159): 0xFF00 for true, 0x0000 for false. -/
def writeBit (slave : Byte) (addr : Word) (state : Bool) (t : Transfer) (s : State) : HostOutcome Unit :=
  exchange (.encWrb slave addr (if state then 0xFF00#16 else 0x0000#16)) t s fun s2 => .next (.value (), s2)

/-- `ANALOG_READ s, a` (R160): `READ_REGISTER s, a`. -/
def analogRead (slave : Byte) (addr : Word) (t : Transfer) (s : State) : HostOutcome Word :=
  readRegister slave addr t s

end Sys2Proof.Machine
end

