-- ==== Sys2Proof/Machine/HostAccess.lean ====
section
/-! DEFINITION. What the host may do beside issuing commands: read registers (10_state.md R34, R36) and send the request frame (43_typed_access.md R153). The host cannot write a register (R31). -/

namespace Sys2Proof.Machine

/-- A host read of one register, or of one byte of a buffer register, between commands (R34). It returns the
current value, zero-extended to 16 bits, and changes nothing. Where a register or byte holds no value the spec itself
asks for "a fault or a refusal of the reading step" (R36) and "never a value" (00_scope.md R18). DESIGN CHOICE (log
entry 5): the width, and a fault of the two. -/
def hostRead (r : HostReg) (s : State) : Except Fault Word :=
  match r with
  | .crc => .ok s.crc
  | .txbuf k =>
    if s.txbufHeld then .ok ((byteAt (frameBytes s.txbuf) k.val).setWidth 16) else .error (.noValue r)
  | .txvalid => .ok (bitWord s.txvalid)
  | .data k =>
    if k.val < s.dlen.toNat then .ok ((dataByte s k.val).setWidth 16) else .error (.noValue r)
  | .dlen => .ok (s.dlen.setWidth 16)
  | .status => .ok (s.status.setWidth 16)
  | .res => if s.resHeld then .ok s.res else .error (.noValue r)

/-- The sending half of `XFER` (R153): `TXBUF[0 .. 7]` in wire order, handed to the serial transport:
a host read of `TXBUF` (10_state.md R24), with no meaning while it holds no value (R36). -/
def xferSends (s : State) : Except Fault (List Byte) :=
  if s.txbufHeld then .ok (frameBytes s.txbuf) else .error (.noValue (.txbuf 0))

end Sys2Proof.Machine
end

