-- ==== Sys2Proof/Safety.lean ====
section
/-! DEFINITION. The terms claims are stated in: the invariant of the codec, the registers a command reads and may write (10_state.md R33), the outcomes a command can have (60_exceptions.md R185), and agreement of two states in everything that holds a value (10_state.md R36). -/

namespace Sys2Proof.Machine

/-- What every reachable state of the codec satisfies. -/
structure State.Inv (s : State) : Prop where
  /-- Codes 9 to 15 of `STATUS` do not occur (10_state.md R28). -/
  status_code : s.status.toNat ≤ 8
  /-- `DATA` has 255 bytes (R20). -/
  data_size : s.data.length ≤ Config.dataMax
  /-- Every byte of `DATA` below `DLEN` has been written (R26, R27). -/
  dlen_le : s.dlen.toNat ≤ s.data.length
  /-- A pending request has been built (R25, R36). -/
  pending_held : s.txvalid = true → s.txbufHeld = true
  /-- A built request has a supported function code (41_encode.md R110). -/
  frame_function : s.txbufHeld = true → isFc s.txbuf.function = true
  /-- A built request passes the frame check (41_encode.md R117). -/
  frame_crc : s.txbufHeld = true → crcOk (frameBytes s.txbuf) = true

/-- The content of a register or buffer byte, `none` where it holds no value because nothing wrote it (R36). -/
def content (r : HostReg) (s : State) : Option Word :=
  match r with
  | .crc => some s.crc
  | .txbuf k => if s.txbufHeld then some ((byteAt (frameBytes s.txbuf) k.val).setWidth 16) else none
  | .txvalid => some (bitWord s.txvalid)
  | .data k => s.data[k.val]?.map (BitVec.setWidth 16)
  | .dlen => some (s.dlen.setWidth 16)
  | .status => some (s.status.setWidth 16)
  | .res => if s.resHeld then some s.res else none

/-- The rows of the read and write matrix (10_state.md R33) and of the outcome matrix (60_exceptions.md R185). -/
inductive CommandRow where
  | crcInit | crcByte | crcBlock | crcCheck | enc | dec | getReg | getBit | reserved
deriving DecidableEq, Repr

/-- The row of the matrices an instruction belongs to. -/
def commandRow : Instr → CommandRow
  | .encRdc _ _ _ => .enc
  | .encRdi _ _ _ => .enc
  | .encRdh _ _ _ => .enc
  | .encWrb _ _ _ => .enc
  | .encWrr _ _ _ => .enc
  | .encRaw _ _ _ _ _ _ => .enc
  | .crcInit _ => .crcInit
  | .crcByte _ => .crcByte
  | .crcBlock _ => .crcBlock
  | .crcCheck _ => .crcCheck
  | .enc _ => .enc
  | .dec _ => .dec
  | .getReg _ => .getReg
  | .getBit _ => .getBit
  | .reserved0 _ => .reserved
  | .reserved9 _ => .reserved
  | .reservedA _ => .reserved
  | .reservedB _ => .reserved
  | .reservedC _ => .reserved
  | .reservedD _ => .reserved
  | .reservedE _ => .reserved
  | .reservedF _ => .reserved

/-- The registers with an `r` in a command's row of R33. -/
def readsRegister (row : CommandRow) (r : HostReg) : Bool :=
  match row, r with
  | .crcByte, .crc => true
  | .dec, .txbuf _ => true
  | .dec, .txvalid => true
  | .getReg, .data _ => true
  | .getReg, .dlen => true
  | .getBit, .data _ => true
  | .getBit, .dlen => true
  | _, _ => false

/-- The registers with a `w` or `w?` in a command's row of R33. -/
def mayWriteRegister (row : CommandRow) (r : HostReg) : Bool :=
  match row, r with
  | _, .status => true
  | .crcInit, .crc => true
  | .crcByte, .crc => true
  | .crcBlock, .crc => true
  | .crcCheck, .crc => true
  | .enc, .crc => true
  | .enc, .txbuf _ => true
  | .enc, .txvalid => true
  | .dec, .crc => true
  | .dec, .txvalid => true
  | .dec, .data _ => true
  | .dec, .dlen => true
  | .getReg, .res => true
  | .getBit, .res => true
  | _, _ => false

/-- A row of R185: the command, and for `DEC` the path its pending or last request selects. -/
inductive OutcomeRow where
  | command (row : CommandRow)
  | decReadPath
  | decWritePath
deriving DecidableEq, Repr

/-- Whether an instruction in a state belongs to a row of R185. -/
def OutcomeRow.covers (row : OutcomeRow) (i : Instr) (s : State) : Bool :=
  match row with
  | .command r => commandRow i == r
  | .decReadPath => commandRow i == .dec && isReadFc s.txbuf.function
  | .decWritePath => commandRow i == .dec && !isReadFc s.txbuf.function

/-- The `yes` and `wrong length` cells of a row of R185. `DEC` as a whole has the cells of its two paths. -/
def OutcomeRow.outcomes : OutcomeRow → List Status
  | .command .crcInit => [.ok, .illegalCommand]
  | .command .crcByte => [.ok, .illegalCommand]
  | .command .crcBlock => [.ok]
  | .command .crcCheck => [.ok, .crcError, .shortFrameError]
  | .command .enc => [.ok, .unsupportedFunction, .illegalCommand]
  | .command .dec => [.ok, .timeoutError, .crcError, .shortFrameError, .echoMismatchError, .noRequest]
  | .command .getReg => [.ok, .illegalCommand, .indexRange]
  | .command .getBit => [.ok, .illegalCommand, .indexRange]
  | .command .reserved => [.illegalCommand]
  | .decReadPath => [.ok, .timeoutError, .crcError, .shortFrameError, .noRequest]
  | .decWritePath => [.ok, .timeoutError, .crcError, .shortFrameError, .echoMismatchError, .noRequest]

/-- One iteration of the CRC in the unreflected form: shift left, and XOR `POLY` when the bit shifted out
was 1. The text of 40_crc.md R90 relates the codec's loop to it through bit reversal. -/
def forwardShift (c : Word) : Word :=
  if c.getLsbD 15 then (c <<< 1) ^^^ Config.crcPoly else c <<< 1

/-- `n` iterations of the unreflected form. -/
def forwardShifts : Nat → Word → Word
  | 0, c => c
  | n + 1, c => forwardShifts n (forwardShift c)

/-- One byte in the unreflected form: the byte meets the high half of `c`, then eight shifts. -/
def forwardStep (c : Word) (b : Byte) : Word := forwardShifts 8 (c ^^^ (b.setWidth 16 <<< 8))

/-- A frame: its covered bytes and their CRC, low byte first (30_encoding.md R63). -/
def withCrc (s : List Byte) : List Byte := s ++ [lo8 (crc16 s), hi8 (crc16 s)]

/-- `f` with bit `j` of byte `k` flipped. -/
def flipBit (f : List Byte) (k j : Nat) : List Byte := f.modify k (· ^^^ (1#8 <<< j))

/-- A read response with the given slave, function and data bytes (R62). -/
def readResponse (slave function : Byte) (d : List Byte) : List Byte :=
  withCrc ([slave, function, BitVec.ofNat 8 d.length] ++ d)

/-- The data bytes of a list of 16-bit registers, each high byte first (20_memory.md R45). -/
def registerData (rs : List Word) : List Byte := rs.flatMap fun r => [hi8 r, lo8 r]

/-- Two states agree in everything a host can read: the same registers and buffer bytes hold a value, with the
same value. They may differ in what stands where no value is held (R36). -/
def sameValues (s t : State) : Prop := ∀ r : HostReg, hostRead r s = hostRead r t

end Sys2Proof.Machine
end

