-- ==== Sys2Proof/WellFormed.lean ====
section
/-! DEFINITION. Which terms of `Instr` the spec's syntax can write down (30_encoding.md R74, R76): a fixed-length command has an argument of its length, and `ENC.RAW` stands for an unsupported function code. An ill-formed term still has a meaning (R75, R76); no meaning assumes well-formedness. -/

namespace Sys2Proof

/-- The length rule of R74 and the operand rule of the `ENC.RAW` row (R116). -/
def Instr.wellFormed : Instr → Bool
  | .encRdc _ _ _ => true
  | .encRdi _ _ _ => true
  | .encRdh _ _ _ => true
  | .encWrb _ _ _ => true
  | .encWrr _ _ _ => true
  | .encRaw _ h1 _ _ _ _ => !(Config.readFunctions ++ Config.writeFunctions).contains h1
  | .crcInit arg => arg.length == 0
  | .crcByte arg => arg.length == 1
  | .crcBlock _ => true
  | .crcCheck _ => true
  | .enc arg => arg.length == Config.headerLen
  | .dec _ => true
  | .getReg arg => arg.length == 1
  | .getBit arg => arg.length == 2
  | .reserved0 _ => true
  | .reserved9 _ => true
  | .reservedA _ => true
  | .reservedB _ => true
  | .reservedC _ => true
  | .reservedD _ => true
  | .reservedE _ => true
  | .reservedF _ => true

end Sys2Proof
end

