-- ==== Sys2Proof/Certificates/Slice0/Obligations.lean ====
section
/-! DEFINITION. The statements about the codec, from the numbered rules of spec/. -/

open Sys2Proof Sys2Proof.Machine

/-! ### Reset, the step and the invariant -/

/-- 10_state.md R35: the reset value of every register; `TXBUF`, `DATA` and `RES` hold no value (R36).
R36 asks for a fault or a refusal of a host read there: that it is a fault of the two is the model's choice (log entry
5). -/
def Obligations.ResetLeavesTheStatedValues : Prop :=
  State.reset.crc = 0xFFFF#16 ∧ State.reset.txvalid = false ∧ State.reset.dlen = 0x00#8 ∧
  State.reset.status = 0x0#4 ∧
  (∀ k, hostRead (.txbuf k) State.reset = .error (.noValue (.txbuf k))) ∧
  (∀ k, hostRead (.data k) State.reset = .error (.noValue (.data k))) ∧
  hostRead .res State.reset = .error (.noValue .res)

/-- The invariant holds at reset. -/
def Obligations.ResetMeetsTheInvariant : Prop := State.reset.Inv

/-- Every step keeps the invariant: `STATUS` codes 9 to 15 do not occur, `DATA` stays within its 255 bytes and
covers `DLEN`, a pending request has been built, and a built request has a supported function code and the
right CRC. -/
def Obligations.StepKeepsTheInvariant : Prop :=
  ∀ s t : State, s.Inv → step s = .next t → t.Inv

/-- 00_scope.md R18: every command is total, for every state and every argument, and ends with a next state whose
`STATUS` is one of the outcome codes, never with a fault or a refusal. 10_state.md R34, R36: a host read of `CRC`,
`TXVALID`, `DLEN` or `STATUS` always gives the current value, and a read of a byte of `TXBUF`, of a byte of `DATA` or
of `RES` gives it exactly where a value is held.
That a read is zero-extended to 16 bits, and of the fault or refusal that R18 and R36 ask for a fault, is the model's
choice (log entry 5). -/
def Obligations.EveryCommandIsTotal : Prop :=
  (∀ (c : Command) (s : State), ∃ t k, exec (decode c) s = .next t ∧ t.status = statusCode k) ∧
  (∀ (i : Instr) (s : State), ∃ t k, exec i s = .next t ∧ t.status = statusCode k) ∧
  ∀ s : State,
    (hostRead .crc s = .ok s.crc ∧ hostRead .txvalid s = .ok (if s.txvalid then 1#16 else 0#16) ∧
      hostRead .dlen s = .ok (s.dlen.setWidth 16) ∧ hostRead .status s = .ok (s.status.setWidth 16)) ∧
    (∀ k : Fin 8,
      (s.txbufHeld = true → hostRead (.txbuf k) s = .ok (((frameBytes s.txbuf).getD k.val 0).setWidth 16)) ∧
      ((∃ w, hostRead (.txbuf k) s = .ok w) ↔ s.txbufHeld = true)) ∧
    (∀ k : Fin 255,
      (k.val < s.dlen.toNat → hostRead (.data k) s = .ok ((s.data.getD k.val 0).setWidth 16)) ∧
      ((∃ w, hostRead (.data k) s = .ok w) ↔ k.val < s.dlen.toNat)) ∧
    (s.resHeld = true → hostRead .res s = .ok s.res) ∧ ((∃ w, hostRead .res s = .ok w) ↔ s.resHeld = true)

/-- A step executes the command the host has presented (10_state.md R22). That a step with no command presented
leaves the state as it is, and that `withFetchWord` presents the command of a table word, is the model's own
(log entries 1 and 4). The codec is never stuck (00_scope.md R18). -/
def Obligations.StepRunsThePresentedCommand : Prop :=
  (∀ (s : State) (c : Command) (rest : List Command), s.port = c :: rest →
    step s = exec (decode c) { s with port := rest }) ∧
  (∀ s : State, s.port = [] → step s = .next s) ∧ (∀ s : State, ∃ t, step s = .next t) ∧
  ∀ (s : State) (nbits w : Nat) (c : Command), tableCommand nbits w = some c →
    decodeTableWord nbits w = some (decode c) ∧ step (s.withFetchWord nbits w) = exec (decode c) s

/-- 10_state.md R22, 60_exceptions.md R193: no command changes which command comes next, and none looks at
the commands that follow it. -/
def Obligations.CommandsLeaveThePortAlone : Prop :=
  ∀ (i : Instr) (s : State) (p : List Command), ∃ t, exec i s = .next t ∧ t.port = s.port ∧
    exec i { s with port := p } = .next { t with port := p }

/-! ### The encodings -/

/-- Words written out from the spec's encodings decode to the instructions they stand for: the request frames
of V14, V16, V17, V18 and V20 as the number `W` of R11, an unsupported function, and command codes of R74.
How a row of 4 or 64 bits is read as a command is the model's own (log entry 4). -/
def Obligations.TableWordsDecodeAsWritten : Prop :=
  decodeTableWord 64 0x0103000000010000 = some (.encRdh 0x01#8 0x0000#16 0x0001#16) ∧
  decodeTableWord 64 0x0101001300250C14 = some (.encRdc 0x01#8 0x0013#16 0x0025#16) ∧
  decodeTableWord 64 0x02020000000AF83E = some (.encRdi 0x02#8 0x0000#16 0x000A#16) ∧
  decodeTableWord 64 0x110500ACFF004E8B = some (.encWrb 0x11#8 0x00AC#16 0xFF00#16) ∧
  decodeTableWord 64 0x010600010003980B = some (.encWrr 0x01#8 0x0001#16 0x0003#16) ∧
  decodeTableWord 64 0x0104000000010000 = some (.encRaw 0x01#8 0x04#8 0x00#8 0x00#8 0x00#8 0x01#8) ∧
  decodeTableWord 4 0x1 = some (.crcInit []) ∧ decodeTableWord 4 0x6 = some (.dec []) ∧
  decodeTableWord 4 0x8 = some (.getBit [0x00#8, 0x00#8]) ∧ decodeTableWord 4 0xF = some (.reservedF [])

/-- 30_encoding.md R69: the function byte alone, under the mask 0x00FF000000000000, selects the request and with it
the class, read or write; the operands are the 16-bit fields `W[47:32]` and `W[31:16]`.
Any other function is written `ENC.RAW` (R71, R76, 41_encode.md R116) and is of neither class. That a 64-bit table word
is `W` with byte 0 on top is the model's reading (log entry 4). -/
def Obligations.FunctionByteSelectsTheRequest : Prop :=
  ∀ w : Nat, let W : BitVec 64 := BitVec.ofNat 64 w
    let selected : BitVec 64 := W &&& 0x00FF000000000000#64
    let slave : Byte := W.extractLsb' 56 8
    let function : Byte := W.extractLsb' 48 8
    let addr : Word := W.extractLsb' 32 16
    let cv : Word := W.extractLsb' 16 16
    (selected = 0x0001000000000000#64 →
      decodeTableWord 64 w = some (.encRdc slave addr cv) ∧ isReadFc function = true) ∧
    (selected = 0x0002000000000000#64 →
      decodeTableWord 64 w = some (.encRdi slave addr cv) ∧ isReadFc function = true) ∧
    (selected = 0x0003000000000000#64 →
      decodeTableWord 64 w = some (.encRdh slave addr cv) ∧ isReadFc function = true) ∧
    (selected = 0x0005000000000000#64 →
      decodeTableWord 64 w = some (.encWrb slave addr cv) ∧ isWriteFc function = true) ∧
    (selected = 0x0006000000000000#64 →
      decodeTableWord 64 w = some (.encWrr slave addr cv) ∧ isWriteFc function = true) ∧
    (selected ∉ [0x0001000000000000#64, 0x0002000000000000#64, 0x0003000000000000#64,
        0x0005000000000000#64, 0x0006000000000000#64] →
      decodeTableWord 64 w = some (.encRaw slave function (hi8 addr) (lo8 addr) (hi8 cv) (lo8 cv)) ∧
      isFc function = false)

/-- 30_encoding.md R76: the command `(cmd, arg)` of every line of the syntax table. For every line but `ENC.RAW` the
command is decoded to the line's instruction, which rests on the codes of R74 and the function bytes of R69; the
`ENC.RAW` line is only encoded here. -/
def Obligations.SyntaxLinesAreTheirCommands : Prop :=
  ∀ (b h0 h1 h2 h3 h4 h5 : Byte) (bs : List Byte) (a v : Word),
    let line (i : Instr) (cmd : BitVec 4) (arg : List Byte) : Prop := encode i = ⟨cmd, arg⟩ ∧ decode ⟨cmd, arg⟩ = i
    line asmCrcInit 0x1#4 [] ∧ line (asmCrcByte b) 0x2#4 [b] ∧ line (.crcBlock bs) 0x3#4 bs ∧
    line (.crcCheck bs) 0x4#4 bs ∧
    line (.encRdc b a v) 0x5#4 [b, 0x01#8, hi8 a, lo8 a, hi8 v, lo8 v] ∧
    line (.encRdi b a v) 0x5#4 [b, 0x02#8, hi8 a, lo8 a, hi8 v, lo8 v] ∧
    line (.encRdh b a v) 0x5#4 [b, 0x03#8, hi8 a, lo8 a, hi8 v, lo8 v] ∧
    line (.encWrb b a v) 0x5#4 [b, 0x05#8, hi8 a, lo8 a, hi8 v, lo8 v] ∧
    line (.encWrr b a v) 0x5#4 [b, 0x06#8, hi8 a, lo8 a, hi8 v, lo8 v] ∧
    encode (.encRaw h0 h1 h2 h3 h4 h5) = ⟨0x5#4, [h0, h1, h2, h3, h4, h5]⟩ ∧
    line (.dec bs) 0x6#4 bs ∧ line (asmGetReg b) 0x7#4 [b] ∧ line (asmGetBit v) 0x8#4 [hi8 v, lo8 v]

/-- Decode and encode agree (30_encoding.md R74, R76): every well-formed instruction other than the row `ENC` comes
back with every operand, a fixed-length command with an argument of a wrong length does too, and a six-byte `ENC` comes
back as another constructor, the instruction its function byte selects, written as the same command.
What `ENC` is to the decoder rests on log entry 4, and that `ENC.RAW` is well-formed only with an unsupported function
byte on log entry 8. -/
def Obligations.DecodeOfEncodeIsTheInstruction : Prop :=
  (∀ i : Instr, i.wellFormed = true → (∀ arg, i ≠ .enc arg) → decode (encode i) = i) ∧
  (∀ arg : List Byte, decode (encode (.crcInit arg)) = .crcInit arg ∧
    decode (encode (.crcByte arg)) = .crcByte arg ∧ decode (encode (.getReg arg)) = .getReg arg ∧
    decode (encode (.getBit arg)) = .getBit arg) ∧
  (∀ arg : List Byte, arg.length ≠ 6 → decode (encode (.enc arg)) = .enc arg) ∧
  ∀ arg : List Byte, arg.length = 6 →
    (decode (encode (.enc arg))).wellFormed = true ∧ (∀ arg', decode (encode (.enc arg)) ≠ .enc arg') ∧
    encode (decode (encode (.enc arg))) = ⟨0x5#4, arg⟩

/-- No bit of a command is lost in decoding it (30_encoding.md R74). -/
def Obligations.EncodeOfDecodeIsTheCommand : Prop := ∀ c : Command, encode (decode c) = c

/-- Writing an instruction down as a command and decoding it again keeps its meaning, for every instruction,
well-formed or not: `ENC.RAW` with a supported function byte is the request that byte selects, and the row
`ENC` is its five requests and `ENC.RAW` (30_encoding.md R74, R76, 41_encode.md R110).
The round trip of `ENC` and `ENC.RAW` rests on log entries 4 and 8. -/
def Obligations.DecodingKeepsTheMeaning : Prop :=
  ∀ (i : Instr) (s : State), exec (decode (encode i)) s = exec i s

/-- 30_encoding.md R75: a reserved command code, or a fixed-length code with an argument of another length, is
`IllegalCommand`: `STATUS` is 7 and no other register changes. -/
def Obligations.ReservedOrMislengthedIsIllegal : Prop :=
  ∀ (c : Command) (s : State),
    (c.cmd ∈ [0x0#4, 0x9#4, 0xA#4, 0xB#4, 0xC#4, 0xD#4, 0xE#4, 0xF#4] ∨
      (c.cmd = 0x1#4 ∧ c.arg.length ≠ 0) ∨ (c.cmd = 0x2#4 ∧ c.arg.length ≠ 1) ∨
      (c.cmd = 0x5#4 ∧ c.arg.length ≠ 6) ∨ (c.cmd = 0x7#4 ∧ c.arg.length ≠ 1) ∨
      (c.cmd = 0x8#4 ∧ c.arg.length ≠ 2)) →
    exec (decode c) s = .next { s with status := 7#4 }

/-- The eight reserved instructions complete: their whole effect is `STATUS = 7` (30_encoding.md R75). -/
def Obligations.ReservedInstructionsComplete : Prop :=
  ∀ (arg : List Byte) (s : State),
    exec (.reserved0 arg) s = .next { s with status := 7#4 } ∧
    exec (.reserved9 arg) s = .next { s with status := 7#4 } ∧
    exec (.reservedA arg) s = .next { s with status := 7#4 } ∧
    exec (.reservedB arg) s = .next { s with status := 7#4 } ∧
    exec (.reservedC arg) s = .next { s with status := 7#4 } ∧
    exec (.reservedD arg) s = .next { s with status := 7#4 } ∧
    exec (.reservedE arg) s = .next { s with status := 7#4 } ∧
    exec (.reservedF arg) s = .next { s with status := 7#4 }

/-! ### The CRC family -/

/-- 40_crc.md R93: `CRC.INIT` sets `CRC` to 0xFFFF from any state and touches nothing else. -/
def Obligations.CrcInitSetsTheInitialValue : Prop :=
  (∀ s : State, exec (.crcInit []) s = .next { s with crc := 0xFFFF#16, status := 0#4 }) ∧
  ∀ (arg : List Byte) (s : State), arg ≠ [] → exec (.crcInit arg) s = .next { s with status := 7#4 }

/-- 40_crc.md R94: `CRC.BYTE b` advances `CRC` by one byte from whatever it holds; an argument of another length
is `IllegalCommand`. The clause on a zero byte is the model's reading of the rule's remark that it still changes `CRC`:
it makes the eight shifts (log entry 7). -/
def Obligations.CrcByteAdvancesTheAccumulator : Prop :=
  (∀ (b : Byte) (s : State),
    exec (.crcByte [b]) s = .next { s with crc := crcStep s.crc b, status := 0#4 }) ∧
  (∀ (arg : List Byte) (s : State), arg.length ≠ 1 → exec (.crcByte arg) s = .next { s with status := 7#4 }) ∧
  crcStep 0xFFFF#16 0x01#8 = 0x807E#16 ∧ crcStep 0xFFFF#16 0x00#8 = 0x40BF#16 ∧
  ∀ c : Word, crcStep c 0x00#8 = crcShifts 8 c

/-- 40_crc.md R95: `CRC.BLOCK s` leaves `crc16(s)` in `CRC` whatever `CRC` held before, and the empty block is
`CRC.INIT`. -/
def Obligations.CrcBlockComputesTheCrc : Prop :=
  (∀ (bytes : List Byte) (s : State),
    exec (.crcBlock bytes) s = .next { s with crc := crc16 bytes, status := 0#4 }) ∧
  (∀ s : State, exec (.crcBlock []) s = exec (.crcInit []) s) ∧
  crc16 [0x01#8, 0x03#8, 0x00#8, 0x00#8, 0x00#8, 0x01#8] = 0x0A84#16

/-- 40_crc.md R96: `CRC.CHECK f` ends with `ShortFrameError` exactly when `len(f) < 2`, and otherwise leaves the
recomputed CRC in `CRC` and compares it with the little-endian number of the last two bytes. -/
def Obligations.CrcCheckRecomputesAndCompares : Prop :=
  ∀ (f : List Byte) (s : State), let L := f.length
    let c := crc16 (f.take (L - 2))
    let received := be16 (f.getD (L - 1) 0) (f.getD (L - 2) 0)
    (L < 2 → exec (.crcCheck f) s = .next { s with status := 3#4 }) ∧
    (2 ≤ L → c ≠ received → exec (.crcCheck f) s = .next { s with crc := c, status := 2#4 }) ∧
    (2 ≤ L → c = received → exec (.crcCheck f) s = .next { s with crc := c, status := 0#4 })

/-- 40_crc.md R90: the reflected loop is the CRC with the polynomial 0x8005 shifted toward bit 15, with the bits
of each byte and of the accumulator reversed; no other reflection is needed.
The spec gives this reading of "reflected" from general knowledge (its D5). -/
def Obligations.ReflectedLoopIsTheReversedForwardLoop : Prop :=
  (∀ (c : Word) (b : Byte), (crcStep c b).reverse = forwardStep c.reverse b.reverse) ∧
  ∀ s : List Byte, (crc16 s).reverse = (s.map BitVec.reverse).foldl forwardStep 0xFFFF#16

/-- 40_crc.md R97: the accumulator can be advanced piece by piece, and `CRC.INIT` followed by one `CRC.BYTE` a
byte leaves the same state as `CRC.BLOCK`.
The spec marks the rule as derived from R91. -/
def Obligations.IncrementalLaw : Prop :=
  (∀ s t : List Byte, crcFrom 0xFFFF#16 (s ++ t) = crcFrom (crc16 s) t) ∧
  ∀ (s : List Byte) (st : State),
    runInstrs (.crcInit [] :: s.map fun b => .crcByte [b]) st = .next { st with crc := crc16 s, status := 0#4 } ∧
    runInstrs (.crcInit [] :: s.map fun b => .crcByte [b]) st = exec (.crcBlock s) st

/-- 40_crc.md R98: a byte sequence followed by its CRC, low byte first, is accepted; every frame that an `ENC`
command builds passes `CRC.CHECK`.
The spec marks the rule as derived from R92. -/
def Obligations.AcceptanceLaw : Prop :=
  (∀ s : List Byte, crcOk (s ++ [lo8 (crc16 s), hi8 (crc16 s)]) = true) ∧
  ∀ (i : Instr) (s t u : State), commandRow i = .enc → exec i s = .next t → t.status = 0#4 →
    exec (.crcCheck (frameBytes t.txbuf)) u = .next { u with crc := t.crc, status := 0#4 }

/-- 40_crc.md R99: flipping any one bit of a frame, in its body or in its CRC, makes the frame check fail.
The spec marks the rule as derived from R90 and R92. -/
def Obligations.SingleBitSensitivity : Prop :=
  ∀ (s : List Byte) (k j : Nat), k < (withCrc s).length → j < 8 → crcOk (flipBit (withCrc s) k j) = false

/-- 40_crc.md R100: the CRC of a frame together with its own CRC is zero.
The spec marks the rule as derived from R90. -/
def Obligations.ResidueIsZero : Prop := ∀ s : List Byte, crc16 (withCrc s) = 0x0000#16

/-! ### The request encoder -/

/-- 41_encode.md R110: `ENC h` of a supported function copies the header, appends its CRC low byte first, marks
the request pending and leaves the CRC in `CRC`, whatever the state was; an unsupported function is refused
with nothing changed but `STATUS` (R116). -/
def Obligations.EncBuildsTheRequestFrame : Prop :=
  ∀ (h0 h1 h2 h3 h4 h5 : Byte) (s : State), let c := crc16 [h0, h1, h2, h3, h4, h5]
    (h1 ∈ [0x01#8, 0x02#8, 0x03#8, 0x05#8, 0x06#8] →
      exec (.enc [h0, h1, h2, h3, h4, h5]) s = .next { s with
        txbuf := ⟨h0, h1, h2, h3, h4, h5, lo8 c, hi8 c⟩, txbufHeld := true, txvalid := true, crc := c,
        status := 0#4 }) ∧
    (h1 ∉ [0x01#8, 0x02#8, 0x03#8, 0x05#8, 0x06#8] →
      exec (.enc [h0, h1, h2, h3, h4, h5]) s = .next { s with status := 5#4 })

/-- 41_encode.md R111 to R115: each of the five requests is the command `ENC` of its header, with its own function
byte and its 16-bit operands high byte first; it completes in every state and leaves the request pending, with the
response path its function selects. -/
def Obligations.FiveRequestsComplete : Prop :=
  ∀ (slave : Byte) (a v : Word) (s : State),
    let built (function : Byte) : Host.Outcome State Fault Refusal :=
      let c := crc16 [slave, function, hi8 a, lo8 a, hi8 v, lo8 v]
      .next { s with
        txbuf := ⟨slave, function, hi8 a, lo8 a, hi8 v, lo8 v, lo8 c, hi8 c⟩, txbufHeld := true,
        txvalid := true, crc := c, status := 0#4 }
    exec (.encRdc slave a v) s = built 0x01#8 ∧ exec (.encRdi slave a v) s = built 0x02#8 ∧
    exec (.encRdh slave a v) s = built 0x03#8 ∧ exec (.encWrb slave a v) s = built 0x05#8 ∧
    exec (.encWrr slave a v) s = built 0x06#8 ∧
    encode (.encRdc slave a v) = ⟨0x5#4, [slave, 0x01#8, hi8 a, lo8 a, hi8 v, lo8 v]⟩ ∧
    encode (.encRdi slave a v) = ⟨0x5#4, [slave, 0x02#8, hi8 a, lo8 a, hi8 v, lo8 v]⟩ ∧
    encode (.encRdh slave a v) = ⟨0x5#4, [slave, 0x03#8, hi8 a, lo8 a, hi8 v, lo8 v]⟩ ∧
    encode (.encWrb slave a v) = ⟨0x5#4, [slave, 0x05#8, hi8 a, lo8 a, hi8 v, lo8 v]⟩ ∧
    encode (.encWrr slave a v) = ⟨0x5#4, [slave, 0x06#8, hi8 a, lo8 a, hi8 v, lo8 v]⟩ ∧
    isReadFc 0x01#8 = true ∧ isReadFc 0x02#8 = true ∧ isReadFc 0x03#8 = true ∧
    isReadFc 0x05#8 = false ∧ isReadFc 0x06#8 = false

/-- 41_encode.md R116: `ENC.RAW` with a function byte that is none of the five builds no frame and leaves
everything but `STATUS`; with one of the five it is the `ENC` of that header (30_encoding.md R76).
That a supported function byte is encoded here too is read from the two rules together (log entry 8). -/
def Obligations.RawRequestIsRefusedOrEncoded : Prop :=
  ∀ (h0 h1 h2 h3 h4 h5 : Byte) (s : State),
    (h1 ∉ [0x01#8, 0x02#8, 0x03#8, 0x05#8, 0x06#8] →
      exec (.encRaw h0 h1 h2 h3 h4 h5) s = .next { s with status := 5#4 }) ∧
    (h1 ∈ [0x01#8, 0x02#8, 0x03#8, 0x05#8, 0x06#8] → let c := crc16 [h0, h1, h2, h3, h4, h5]
      exec (.encRaw h0 h1 h2 h3 h4 h5) s = .next { s with
        txbuf := ⟨h0, h1, h2, h3, h4, h5, lo8 c, hi8 c⟩, txbufHeld := true, txvalid := true, crc := c,
        status := 0#4 })

/-- 41_encode.md R117: after a successful `ENC h` the frame begins with `h`, passes the frame check and so
detects every single-bit corruption, carries `CRC`, depends on `h` alone, and differs for two headers; the host reads
every byte of it and sends it.
The spec marks the rule as derived from R110 and R92; the width of a host read is log entry 5. -/
def Obligations.BuiltFramesAreSound : Prop :=
  (∀ (h : List Byte) (s t : State), h.length = 6 → exec (.enc h) s = .next t → t.status = 0#4 →
    (frameBytes t.txbuf).take 6 = h ∧ crcOk (frameBytes t.txbuf) = true ∧
    (∀ k j, k < 8 → j < 8 → crcOk (flipBit (frameBytes t.txbuf) k j) = false) ∧
    be16 t.txbuf.crcHi t.txbuf.crcLo = t.crc ∧
    (∀ s' t', exec (.enc h) s' = .next t' → t'.txbuf = t.txbuf) ∧
    (∀ k : Fin 8, hostRead (.txbuf k) t = .ok ((byteAt (frameBytes t.txbuf) k.val).setWidth 16)) ∧
    xferSends t = .ok (frameBytes t.txbuf)) ∧
  ∀ (h h' : List Byte) (s t s' t' : State), h.length = 6 → h'.length = 6 →
    exec (.enc h) s = .next t → t.status = 0#4 → exec (.enc h') s' = .next t' → t'.status = 0#4 →
    (frameBytes t.txbuf).take 6 = (frameBytes t'.txbuf).take 6 → h = h'

/-! ### The response decoder -/

/-- 42_decode.md R130: `DEC` is refused with `NoRequest` when no request is pending; otherwise the request stops
being pending whatever follows, and its function code chooses the path; a second `DEC` is refused. -/
def Obligations.DecNeedsAndConsumesTheRequest : Prop :=
  ∀ (rx : List Byte) (s : State),
    (s.txvalid = false → exec (.dec rx) s = .next { s with status := 6#4 }) ∧
    (s.txvalid = true → s.txbuf.function ∈ [0x01#8, 0x02#8, 0x03#8] →
      exec (.dec rx) s = .next (readPath rx { s with txvalid := false })) ∧
    (s.txvalid = true → s.txbuf.function ∉ [0x01#8, 0x02#8, 0x03#8] →
      exec (.dec rx) s = .next (writePath rx { s with txvalid := false })) ∧
    (s.txvalid = true → ∃ t, exec (.dec rx) s = .next t ∧ t.txvalid = false ∧
      ∀ rx', exec (.dec rx') t = .next { t with status := 6#4 })

/-- 42_decode.md R131: the outcome of `DEC` on the read path, by length and CRC, with every register it writes. -/
def Obligations.ReadPathOutcomes : Prop :=
  ∀ (s : State) (rx : List Byte), s.txvalid = true → s.txbuf.function ∈ [0x01#8, 0x02#8, 0x03#8] →
    let L := rx.length
    let n := (rx.getD 2 0).toNat
    let c := crc16 (rx.take (L - 2))
    let received := be16 (rx.getD (L - 1) 0) (rx.getD (L - 2) 0)
    (L = 0 → exec (.dec rx) s = .next { s with txvalid := false, dlen := 0#8, status := 1#4 }) ∧
    (1 ≤ L → L ≤ 4 → exec (.dec rx) s = .next { s with txvalid := false, dlen := 0#8, status := 3#4 }) ∧
    (5 ≤ L → L ≠ 5 + n → exec (.dec rx) s = .next { s with txvalid := false, dlen := 0#8, status := 3#4 }) ∧
    (L = 5 + n → c ≠ received →
      exec (.dec rx) s = .next { s with txvalid := false, crc := c, dlen := 0#8, status := 2#4 }) ∧
    (L = 5 + n → c = received → ∃ d : List Byte,
      exec (.dec rx) s = .next { s with
        txvalid := false, crc := c, data := d, dlen := BitVec.ofNat 8 n, status := 0#4 } ∧
      (∀ k, k < n → d[k]? = rx[3 + k]?) ∧ ∀ k, n ≤ k → d[k]? = s.data[k]?)

/-- 42_decode.md R132: the outcome of `DEC` on the write path, by length, CRC and echo. -/
def Obligations.WritePathOutcomes : Prop :=
  ∀ (s : State) (rx : List Byte), s.txvalid = true → s.txbuf.function ∈ [0x05#8, 0x06#8] →
    let L := rx.length
    let c := crc16 (rx.take 6)
    let received := be16 (rx.getD 7 0) (rx.getD 6 0)
    let echoed := rx.take 6 = (frameBytes s.txbuf).take 6
    (L = 0 → exec (.dec rx) s = .next { s with txvalid := false, dlen := 0#8, status := 1#4 }) ∧
    (L ≠ 0 → L ≠ 8 → exec (.dec rx) s = .next { s with txvalid := false, dlen := 0#8, status := 3#4 }) ∧
    (L = 8 → c ≠ received →
      exec (.dec rx) s = .next { s with txvalid := false, crc := c, dlen := 0#8, status := 2#4 }) ∧
    (L = 8 → c = received → ¬echoed →
      exec (.dec rx) s = .next { s with txvalid := false, crc := c, dlen := 0#8, status := 4#4 }) ∧
    (L = 8 → c = received → echoed →
      exec (.dec rx) s = .next { s with txvalid := false, crc := c, dlen := 0#8, status := 0#4 })

/-- 42_decode.md R133: the effects of `DEC` by outcome, every register of every row of the table.
The spec marks the table as derived from R130 to R132. -/
def Obligations.DecEffectsByOutcome : Prop :=
  ∀ (rx : List Byte) (s t : State), exec (.dec rx) s = .next t →
    let c := crc16 (rx.take (rx.length - 2))
    (s.txvalid = false ∧ t = { s with status := 6#4 }) ∨
    (s.txvalid = true ∧ t = { s with txvalid := false, dlen := 0#8, status := 1#4 }) ∨
    (s.txvalid = true ∧ t = { s with txvalid := false, dlen := 0#8, status := 3#4 }) ∨
    (s.txvalid = true ∧ t = { s with txvalid := false, crc := c, dlen := 0#8, status := 2#4 }) ∨
    (s.txvalid = true ∧ isReadFc s.txbuf.function = false ∧
      t = { s with txvalid := false, crc := c, dlen := 0#8, status := 4#4 }) ∨
    (s.txvalid = true ∧ isReadFc s.txbuf.function = true ∧
      t = { s with txvalid := false, crc := c, data := t.data, dlen := rx.getD 2 0, status := 0#4 } ∧
      (∀ k, k < t.dlen.toNat → t.data[k]? = rx[3 + k]?) ∧
      ∀ k, t.dlen.toNat ≤ k → t.data[k]? = s.data[k]?) ∨
    (s.txvalid = true ∧ isReadFc s.txbuf.function = false ∧
      t = { s with txvalid := false, crc := c, dlen := 0#8, status := 0#4 })

/-- 42_decode.md R134: the read path accepts only the lengths `5 + rx[2]`, from 5 to 260, and every one of these
lengths can be accepted; every other non-empty length is `ShortFrameError`, above 260 always. -/
def Obligations.AcceptedReadLengths : Prop :=
  ∀ s : State, s.txvalid = true → isReadFc s.txbuf.function = true →
    (∀ (t : State) (rx : List Byte), exec (.dec rx) s = .next t →
      (t.status = 0#4 → rx.length = 5 + (rx.getD 2 0).toNat ∧ 5 ≤ rx.length ∧ rx.length ≤ 260) ∧
      (t.status = 3#4 ↔ rx ≠ [] ∧ (rx.length < 5 ∨ rx.length ≠ 5 + (rx.getD 2 0).toNat)) ∧
      (260 < rx.length → t.status = 3#4)) ∧
    ∀ L : Nat, 5 ≤ L → L ≤ 260 → ∃ rx t, rx.length = L ∧ exec (.dec rx) s = .next t ∧ t.status = 0#4

/-- 42_decode.md R135: the read path accepts a well-formed read response from any slave, to any function and with
any number of data bytes, odd ones included, whatever was asked for. -/
def Obligations.ReadPathChecksOnlyLengthAndCrc : Prop :=
  ∀ (s : State) (slave function : Byte) (d : List Byte), s.txvalid = true →
    isReadFc s.txbuf.function = true → d.length ≤ 255 →
    exec (.dec (readResponse slave function d)) s = .next { s with
      txvalid := false, crc := crc16 ([slave, function, BitVec.ofNat 8 d.length] ++ d),
      data := d ++ s.data.drop d.length, dlen := BitVec.ofNat 8 d.length, status := 0#4 }

/-- 42_decode.md R136: an accepted write response is the request, all eight bytes, and the echo of the pending
write request always succeeds.
The spec marks the rule as derived from R132, R117 and R92. -/
def Obligations.AcceptedWriteResponseIsTheRequest : Prop :=
  ∀ (s : State) (rx : List Byte), s.Inv → s.txvalid = true → isWriteFc s.txbuf.function = true →
    (∀ t, exec (.dec rx) s = .next t → t.status = 0#4 → rx = frameBytes s.txbuf) ∧
    exec (.dec (frameBytes s.txbuf)) s = .next { s with
      txvalid := false, crc := be16 s.txbuf.crcHi s.txbuf.crcLo, dlen := 0#8, status := 0#4 }

/-- 42_decode.md R137: a five-byte exception response is `ShortFrameError` on the write path and, for every
exception code from 1 up, on the read path; with code 0 and the right CRC the read path accepts it with no
data, and a typed read of at least one register or bit then rejects it.
The spec marks the rule as derived from R131 and R132. That no other command comes in between in a typed read is the
premise of 70_reset_and_hazards.md R216, built into the typed operation (log entry 9). -/
def Obligations.ExceptionResponses : Prop :=
  ∀ (s : State) (slave function code crcLo crcHi : Byte), s.txvalid = true →
    (isReadFc s.txbuf.function = false →
      exec (.dec [slave, function, code, crcLo, crcHi]) s =
        .next { s with txvalid := false, dlen := 0#8, status := 3#4 }) ∧
    (isReadFc s.txbuf.function = true → code ≠ 0x00#8 →
      exec (.dec [slave, function, code, crcLo, crcHi]) s =
        .next { s with txvalid := false, dlen := 0#8, status := 3#4 }) ∧
    (isReadFc s.txbuf.function = true → code = 0x00#8 → crc16 [slave, function, code] = be16 crcHi crcLo →
      exec (.dec [slave, function, code, crcLo, crcHi]) s =
        .next { s with txvalid := false, crc := be16 crcHi crcLo, dlen := 0#8, status := 0#4 } ∧
      ∀ (asked : Byte) (a n : Word), n ≠ 0x0000#16 →
        (∃ t, readRegister asked a (.received [slave, function, code, crcLo, crcHi]) s =
          .next (.error 3#4, t)) ∧
        (∃ t, readRegisters asked a n (.received [slave, function, code, crcLo, crcHi]) s =
          .next (.error 3#4, t)) ∧
        ∀ fc : Byte, fc = 0x01#8 ∨ fc = 0x02#8 →
          ∃ t, readBits asked a n fc (.received [slave, function, code, crcLo, crcHi]) s = .next (.error 3#4, t))

/-- 42_decode.md R138: the corner cases of the read path: no data, 255 data bytes, data never surviving a later
`DEC`, and the request echoed back to `ENC.RDH 0x01, 0x0000, 0x0001`.
The spec marks the rule as derived from R131. -/
def Obligations.ReadPathCornerCases : Prop :=
  (∀ (s : State) (slave function : Byte), s.txvalid = true → isReadFc s.txbuf.function = true →
    exec (.dec (readResponse slave function [])) s = .next { s with
      txvalid := false, crc := crc16 [slave, function, 0x00#8], dlen := 0#8, status := 0#4 }) ∧
  (∀ (s : State) (slave function : Byte) (d : List Byte), s.txvalid = true →
    isReadFc s.txbuf.function = true → d.length = 255 →
    ∃ t, exec (.dec (readResponse slave function d)) s = .next t ∧ t.status = 0#4 ∧ t.dlen = 255#8 ∧
      t.data.take 255 = d) ∧
  (∀ (s t : State) (rx : List Byte), s.txvalid = true → exec (.dec rx) s = .next t →
    t.dlen = 0#8 ∨ (t.status = 0#4 ∧ ∀ k, k < t.dlen.toNat → t.data[k]? = rx[3 + k]?)) ∧
  ∀ s t : State, exec (.encRdh 0x01#8 0x0000#16 0x0001#16) s = .next t →
    exec (.dec (frameBytes t.txbuf)) t = .next { t with txvalid := false, dlen := 0#8, status := 3#4 }

/-- 42_decode.md R139: the round trip. After `ENC.RDH s, a, n` with `1 <= n <= 127`, decoding the correct response
that carries `n` registers gives `STATUS = 0` and `DLEN = 2 * n`, and `GET.REG i` returns register `i`.
The spec marks the rule as derived from R131, R150 and R98. -/
def Obligations.ReadRegistersRoundTrip : Prop :=
  ∀ (st : State) (s : Byte) (a : Word) (r : List Word), 1 ≤ r.length → r.length ≤ 127 →
    ∃ t u, exec (.encRdh s a (BitVec.ofNat 16 r.length)) st = .next t ∧ t.status = 0#4 ∧
      exec (.dec (readResponse s 0x03#8 (registerData r))) t = .next u ∧ u.status = 0#4 ∧
      u.dlen.toNat = 2 * r.length ∧
      ∀ (i : Nat) (v : Word), r[i]? = some v →
        exec (.getReg [BitVec.ofNat 8 i]) u = .next { u with res := v, resHeld := true, status := 0#4 }

/-! ### Typed access and the typed operations -/

/-- 43_typed_access.md R150: `GET.REG i` puts `DATA[2i], DATA[2i+1]`, high byte first, into `RES` when both bytes
lie below `DLEN`, and is refused with `IndexRange` otherwise. -/
def Obligations.GetRegFetchesARegister : Prop :=
  (∀ (i : Byte) (s : State),
    (2 * i.toNat + 1 < s.dlen.toNat → exec (.getReg [i]) s = .next { s with
      res := be16 (s.data.getD (2 * i.toNat) 0) (s.data.getD (2 * i.toNat + 1) 0), resHeld := true,
      status := 0#4 }) ∧
    (s.dlen.toNat ≤ 2 * i.toNat + 1 → exec (.getReg [i]) s = .next { s with status := 8#4 }) ∧
    (∀ t, exec (.getReg [i]) s = .next t → t.status = 0#4 → i.toNat ≤ 126)) ∧
  ∀ (arg : List Byte) (s : State), arg.length ≠ 1 → exec (.getReg arg) s = .next { s with status := 7#4 }

/-- 43_typed_access.md R151: `GET.BIT i` puts bit `i mod 8` of `DATA[i div 8]` into `RES` when that byte lies
below `DLEN`, and is refused with `IndexRange` otherwise. -/
def Obligations.GetBitFetchesABit : Prop :=
  (∀ (i : Word) (s : State),
    (i.toNat / 8 < s.dlen.toNat → exec (.getBit [hi8 i, lo8 i]) s = .next { s with
      res := if (s.data.getD (i.toNat / 8) 0).getLsbD (i.toNat % 8) then 0x0001#16 else 0x0000#16,
      resHeld := true, status := 0#4 }) ∧
    (s.dlen.toNat ≤ i.toNat / 8 → exec (.getBit [hi8 i, lo8 i]) s = .next { s with status := 8#4 }) ∧
    (∀ t, exec (.getBit [hi8 i, lo8 i]) s = .next t → t.status = 0#4 → i.toNat ≤ 2039)) ∧
  ∀ (arg : List Byte) (s : State), arg.length ≠ 2 → exec (.getBit arg) s = .next { s with status := 7#4 }

/-- 43_typed_access.md R155: the result of `READ_REGISTER s, a` for every received byte sequence, and the commands
it issues.
That no other command comes in between is the premise of 70_reset_and_hazards.md R216, built into the typed operation
(log entry 9); the byte order is D17 of the spec, from general knowledge (log entry 11). -/
def Obligations.ReadRegisterResult : Prop :=
  ∀ (s : Byte) (a : Word) (rx : List Byte) (st : State), let L := rx.length
    let result : Result Word :=
      if L = 0 then .error 1#4
      else if L < 5 ∨ L ≠ 5 + (rx.getD 2 0).toNat then .error 3#4
      else if crc16 (rx.take (L - 2)) ≠ be16 (rx.getD (L - 1) 0) (rx.getD (L - 2) 0) then .error 2#4
      else if rx.getD 2 0 ≠ 2#8 then .error 3#4
      else .value (be16 (rx.getD 3 0) (rx.getD 4 0))
    let fetches : List Instr := match result with
      | .value _ => [.getReg [0x00#8]]
      | _ => []
    ∃ t, readRegister s a (.received rx) st = .next (result, t) ∧
      runInstrs ([.encRdh s a 0x0001#16, .dec rx] ++ fetches) st = .next t

/-- 43_typed_access.md R156: the result of `READ_REGISTERS s, a, n` for every received byte sequence, and the
commands it issues.
That no other command comes in between is the premise of 70_reset_and_hazards.md R216, built into the typed operation
(log entry 9); the byte order is D17 of the spec, from general knowledge (log entry 11). -/
def Obligations.ReadRegistersResult : Prop :=
  ∀ (s : Byte) (a n : Word) (rx : List Byte) (st : State), let L := rx.length
    let result : Result (List Word) :=
      if L = 0 then .error 1#4
      else if L < 5 ∨ L ≠ 5 + (rx.getD 2 0).toNat then .error 3#4
      else if crc16 (rx.take (L - 2)) ≠ be16 (rx.getD (L - 1) 0) (rx.getD (L - 2) 0) then .error 2#4
      else if (rx.getD 2 0).toNat ≠ 2 * n.toNat then .error 3#4
      else .value ((List.range n.toNat).map fun i =>
        be16 (rx.getD (3 + 2 * i) 0) (rx.getD (3 + 2 * i + 1) 0))
    let fetches : List Instr := match result with
      | .value _ => (List.range n.toNat).map fun i => .getReg [BitVec.ofNat 8 i]
      | _ => []
    ∃ t, readRegisters s a n (.received rx) st = .next (result, t) ∧
      runInstrs ([.encRdh s a n, .dec rx] ++ fetches) st = .next t

/-- 43_typed_access.md R157: `WRITE_REGISTER s, a, v` gives `ack` exactly for the echo of its request, and
otherwise the error kind of the first check that fails; the commands it issues.
That no other command comes in between is the premise of 70_reset_and_hazards.md R216, built into the typed operation
(log entry 9). -/
def Obligations.WriteRegisterResult : Prop :=
  ∀ (s : Byte) (a v : Word) (rx : List Byte) (st : State), let L := rx.length
    let header := [s, 0x06#8, hi8 a, lo8 a, hi8 v, lo8 v]
    (∃ t, writeRegister s a v (.received rx) st = .next
      ((if L = 0 then .error 1#4
        else if L ≠ 8 then .error 3#4
        else if crc16 (rx.take 6) ≠ be16 (rx.getD 7 0) (rx.getD 6 0) then .error 2#4
        else if rx.take 6 ≠ header then .error 4#4
        else .value ()), t) ∧
      runInstrs [.encWrr s a v, .dec rx] st = .next t) ∧
    ((∃ t, writeRegister s a v (.received rx) st = .next (.value (), t)) ↔ rx = withCrc header)

/-- 43_typed_access.md R158: the result of `READ_BITS s, a, n, fc` for every received byte sequence, and the commands
it issues; an `fc` that is no read-bits code is `UnsupportedFunction` and issues no command.
That no other command comes in between is the premise of 70_reset_and_hazards.md R216, built into the typed operation
(log entry 9); the order of the bits and the expected
`ceil8(n)` bytes are D18 of the spec, from general knowledge (log entry 11). -/
def Obligations.ReadBitsResult : Prop :=
  ∀ (s : Byte) (a n : Word) (fc : Byte) (rx : List Byte) (st : State), let L := rx.length
    let result : Result (List Bool) :=
      if L = 0 then .error 1#4
      else if L < 5 ∨ L ≠ 5 + (rx.getD 2 0).toNat then .error 3#4
      else if crc16 (rx.take (L - 2)) ≠ be16 (rx.getD (L - 1) 0) (rx.getD (L - 2) 0) then .error 2#4
      else if (rx.getD 2 0).toNat ≠ (n.toNat + 7) / 8 then .error 3#4
      else .value ((List.range n.toNat).map fun i => (rx.getD (3 + i / 8) 0).getLsbD (i % 8))
    let fetches : List Instr := match result with
      | .value _ => (List.range n.toNat).map fun i => .getBit [hi8 (BitVec.ofNat 16 i), lo8 (BitVec.ofNat 16 i)]
      | _ => []
    (fc = 0x01#8 → ∃ t, readBits s a n fc (.received rx) st = .next (result, t) ∧
      runInstrs ([.encRdc s a n, .dec rx] ++ fetches) st = .next t) ∧
    (fc = 0x02#8 → ∃ t, readBits s a n fc (.received rx) st = .next (result, t) ∧
      runInstrs ([.encRdi s a n, .dec rx] ++ fetches) st = .next t) ∧
    (fc ≠ 0x01#8 → fc ≠ 0x02#8 → ∀ x, readBits s a n fc x st = .next (.error 5#4, st))

/-- 43_typed_access.md R159: `WRITE_BIT s, a, state` sends 0xFF00 for true and 0x0000 for false, and gives `ack`
exactly for the echo of its request; the commands it issues.
The spec takes the two value words from general knowledge (its D19, log entry 11).
That no other command comes in between is the premise of 70_reset_and_hazards.md R216, built into the typed operation
(log entry 9). -/
def Obligations.WriteBitResult : Prop :=
  ∀ (s : Byte) (a : Word) (state : Bool) (rx : List Byte) (st : State), let L := rx.length
    let header := [s, 0x05#8, hi8 a, lo8 a, if state then 0xFF#8 else 0x00#8, 0x00#8]
    (∃ t, writeBit s a state (.received rx) st = .next
      ((if L = 0 then .error 1#4
        else if L ≠ 8 then .error 3#4
        else if crc16 (rx.take 6) ≠ be16 (rx.getD 7 0) (rx.getD 6 0) then .error 2#4
        else if rx.take 6 ≠ header then .error 4#4
        else .value ()), t) ∧
      runInstrs [.encWrb s a (if state then 0xFF00#16 else 0x0000#16), .dec rx] st = .next t) ∧
    ((∃ t, writeBit s a state (.received rx) st = .next (.value (), t)) ↔ rx = withCrc header)

/-- 43_typed_access.md R160: `ANALOG_READ s, a` is `READ_REGISTER s, a`: it sends the fixed request
`[s][0x03][hi][lo][0x00][0x01]` with its CRC, and a seven-byte response gives its 16-bit value.
The spec marks the rule as derived from R155 and R70; the byte order is its D17 (log entry 11). That no other command
comes in between is the premise of 70_reset_and_hazards.md R216, built into the typed operation (log entry 9). -/
def Obligations.AnalogReadIsReadRegister : Prop :=
  ∀ (s : Byte) (a : Word) (st : State),
    (∀ x, analogRead s a x st = readRegister s a x st) ∧
    (∃ t, exec (.encRdh s a 0x0001#16) st = .next t ∧
      xferSends t = .ok (withCrc [s, 0x03#8, hi8 a, lo8 a, 0x00#8, 0x01#8])) ∧
    ∀ hi lo : Byte, (readResponse s 0x03#8 [hi, lo]).length = 7 ∧
      ∃ t, analogRead s a (.received (readResponse s 0x03#8 [hi, lo])) st = .next (.value (be16 hi lo), t)

/-- 43_typed_access.md R154, 40_crc.md R101: the expected length is a natural number that is not truncated, so a
read of more registers or bits than 255 bytes can carry never gives a value; on a failed count check the
result is `ShortFrameError` while `STATUS` stays 0.
That no other command comes in between is the premise of 70_reset_and_hazards.md R216, built into the typed operation
(log entry 9). -/
def Obligations.CountCheckIsNotTruncated : Prop :=
  ∀ (s : Byte) (a n : Word) (rx : List Byte) (st t : State),
    (128 ≤ n.toNat → ∀ vs, readRegisters s a n (.received rx) st ≠ .next (.value vs, t)) ∧
    (2041 ≤ n.toNat → ∀ fc vs, readBits s a n fc (.received rx) st ≠ .next (.value vs, t)) ∧
    ∀ d : List Byte, d.length ≤ 255 → d.length ≠ 2 * n.toNat →
      ∃ u, readRegisters s a n (.received (readResponse s 0x03#8 d)) st = .next (.error 3#4, u) ∧
        u.status = 0#4

/-- 60_exceptions.md R183: after a transport failure the host has no bytes to decode. Whichever typed operation
failed, its request stays pending: every command but `DEC` leaves it pending, only a successful `ENC` replaces it, and
a `DEC` of the empty sequence reports `TimeoutError`.
That the typed operation then ends with no value is the model's own (log entry 6); that it ends in the very state its
`ENC` left, with no other command in between, is the premise of 70_reset_and_hazards.md R216, built into the typed
operation (log entry 9). -/
def Obligations.TransportFailureLeavesTheRequestPending : Prop :=
  (∀ (s : Byte) (a n v : Word) (state : Bool) (st : State),
    let stopsPending (α : Type) (request : Instr) (operation : Transfer → State → HostOutcome α) : Prop :=
      ∃ t, exec request st = .next t ∧ t.txvalid = true ∧
        operation .transportError st = .next (.transportError, t)
    stopsPending Word (.encRdh s a 0x0001#16) (readRegister s a) ∧
    stopsPending (List Word) (.encRdh s a n) (readRegisters s a n) ∧
    stopsPending Unit (.encWrr s a v) (writeRegister s a v) ∧
    stopsPending (List Bool) (.encRdc s a n) (readBits s a n 0x01#8) ∧
    stopsPending (List Bool) (.encRdi s a n) (readBits s a n 0x02#8) ∧
    stopsPending Unit (.encWrb s a (if state then 0xFF00#16 else 0x0000#16)) (writeBit s a state) ∧
    stopsPending Word (.encRdh s a 0x0001#16) (analogRead s a)) ∧
  (∀ (i : Instr) (s t : State), s.txvalid = true → commandRow i ≠ .dec → exec i s = .next t →
    t.txvalid = true ∧ (t.txbuf = s.txbuf ∨ (commandRow i = .enc ∧ t.status = 0#4))) ∧
  (∀ (h : List Byte) (s t : State), exec (.enc h) s = .next t → t.status = 0#4 →
    t.txvalid = true ∧ (frameBytes t.txbuf).take 6 = h) ∧
  ∀ s : State, s.txvalid = true →
    exec (.dec []) s = .next { s with txvalid := false, dlen := 0#8, status := 1#4 }

/-! ### Rules of the whole machine -/

/-- 10_state.md R33: the read and write matrix. A command changes no register its row does not mark `w`, and
what it writes depends on no register its row does not mark `r`: in two states that agree in the registers it
reads, every register ends equal or unchanged in both.
The spec marks the table as derived from the rule of each command. -/
def Obligations.CommandsKeepToTheMatrix : Prop :=
  (∀ (i : Instr) (s t : State) (r : HostReg), exec i s = .next t →
    mayWriteRegister (commandRow i) r = false → content r t = content r s) ∧
  ∀ (i : Instr) (s t s' t' : State), s.Inv → t.Inv →
    (∀ r, readsRegister (commandRow i) r = true → content r s = content r t) →
    exec i s = .next s' → exec i t = .next t' →
    ∀ r, content r s' = content r t' ∨ (content r s' = content r s ∧ content r t' = content r t)

/-- 60_exceptions.md R185: which command can end with which code, complete in both directions: a code occurs for
a row in some state if and only if its cell says so.
The spec marks the table as derived from the rule of each command. -/
def Obligations.OutcomeMatrix : Prop :=
  ∀ (row : OutcomeRow) (code : BitVec 4),
    (∃ i s t, row.covers i s = true ∧ exec i s = .next t ∧ t.status = code) ↔
      ∃ k ∈ row.outcomes, statusCode k = code

/-- 10_state.md R28, R30: every command writes `STATUS` and no command reads it: what a command does and the code
it ends with are the same whatever `STATUS` held, the code is one of 0 to 8, and reset leaves 0. -/
def Obligations.StatusIsWrittenAndNeverRead : Prop :=
  (∀ (i : Instr) (s : State) (code : BitVec 4), exec i { s with status := code } = exec i s) ∧
  (∀ (i : Instr) (s t : State), exec i s = .next t → t.status.toNat ≤ 8) ∧ State.reset.status = 0#4

/-- 60_exceptions.md R182, R184, R190: the codes of the outcomes, and that raising or refusing a kind writes its
code to `STATUS` and nothing else. -/
def Obligations.ErrorEntryWritesOnlyTheCode : Prop :=
  (∀ (k : Status) (s : State), raise k s = { s with status := statusCode k }) ∧
  statusCode .ok = 0#4 ∧ statusCode .timeoutError = 1#4 ∧ statusCode .crcError = 2#4 ∧
  statusCode .shortFrameError = 3#4 ∧ statusCode .echoMismatchError = 4#4 ∧
  statusCode .unsupportedFunction = 5#4 ∧ statusCode .noRequest = 6#4 ∧
  statusCode .illegalCommand = 7#4 ∧ statusCode .indexRange = 8#4

/-- 60_exceptions.md R188: when several conditions hold, the first in the order `IllegalCommand`, `NoRequest`,
`TimeoutError`, `ShortFrameError`, `CrcError`, `EchoMismatchError` is reported: a wrong CRC at the right length is
`CrcError` whatever the echo is, and a wrong echo is reported only where the length and the CRC are right. -/
def Obligations.FirstErrorIsReported : Prop :=
  (∀ (s t : State) (rx : List Byte), exec (.dec rx) s = .next t →
    t.status ≠ 7#4 ∧ (s.txvalid = false → t.status = 6#4) ∧
    (s.txvalid = true → rx = [] → t.status = 1#4) ∧
    (s.txvalid = true → rx ≠ [] →
      (if isReadFc s.txbuf.function then rx.length < 5 ∨ rx.length ≠ 5 + (rx.getD 2 0).toNat
        else rx.length ≠ 8) → t.status = 3#4) ∧
    (s.txvalid = true →
      (if isReadFc s.txbuf.function then rx.length = 5 + (rx.getD 2 0).toNat else rx.length = 8) →
      crcOk rx = false → t.status = 2#4) ∧
    (s.txvalid = true → isReadFc s.txbuf.function = false → rx.length = 8 → crcOk rx = true →
      rx.take 6 ≠ (frameBytes s.txbuf).take 6 → t.status = 4#4) ∧
    (t.status = 2#4 → crcOk rx = false ∧
      if isReadFc s.txbuf.function then rx.length = 5 + (rx.getD 2 0).toNat else rx.length = 8) ∧
    (t.status = 4#4 → isReadFc s.txbuf.function = false ∧ rx.length = 8 ∧ crcOk rx = true)) ∧
  (∀ (s t : State) (f : List Byte), f.length < 2 → exec (.crcCheck f) s = .next t → t.status = 3#4) ∧
  (∀ (s t : State) (arg : List Byte), arg.length ≠ 6 → exec (.enc arg) s = .next t → t.status = 7#4) ∧
  (∀ (s t : State) (arg : List Byte), arg.length ≠ 1 → exec (.getReg arg) s = .next t → t.status = 7#4) ∧
  ∀ (s t : State) (arg : List Byte), arg.length ≠ 2 → exec (.getBit arg) s = .next t → t.status = 7#4

/-- 20_memory.md R49: `CRC.BLOCK`, `CRC.CHECK`, `GET.REG`, `GET.BIT` and `ENC` repeated change nothing more;
`CRC.BYTE` does, and a second `DEC` without a new `ENC` is refused with `NoRequest`.
The spec marks the rule as derived from R93 to R96, R110, R130, R150, R151. -/
def Obligations.IdempotentCommands : Prop :=
  (∀ (i : Instr) (s t : State), commandRow i ∈ [.crcBlock, .crcCheck, .getReg, .getBit, .enc] →
    exec i s = .next t → exec i t = .next t) ∧
  (∃ (b : Byte) (s t : State), exec (.crcByte [b]) s = .next t ∧ exec (.crcByte [b]) t ≠ .next t) ∧
  ∀ (rx rx' : List Byte) (s t : State), exec (.dec rx) s = .next t →
    exec (.dec rx') t = .next { t with status := 6#4 }

/-- 10_state.md R36: what holds no value. A host read of it faults and gives no number; it begins to hold a value
with the first successful `ENC` or `GET`, or below `DLEN`; and no command reads it: two states that agree in
everything that holds a value go to states that agree so again.
R36 asks for a fault or a refusal of the read: that it is a fault of the two is the model's choice (log entry 5). -/
def Obligations.NoValueIsNeverRead : Prop :=
  (∀ (s : State) (k : Fin 8), hostRead (.txbuf k) s = .error (.noValue (.txbuf k)) ↔ s.txbufHeld = false) ∧
  (∀ (s : State) (k : Fin 255), hostRead (.data k) s = .error (.noValue (.data k)) ↔ s.dlen.toNat ≤ k.val) ∧
  (∀ s : State, hostRead .res s = .error (.noValue .res) ↔ s.resHeld = false) ∧
  (∀ (i : Instr) (s t : State), exec i s = .next t →
    (t.txbufHeld = true ↔ s.txbufHeld = true ∨ (commandRow i = .enc ∧ t.status = 0#4)) ∧
    (t.resHeld = true ↔ s.resHeld = true ∨ (commandRow i ∈ [.getReg, .getBit] ∧ t.status = 0#4))) ∧
  ∀ (i : Instr) (s t s' t' : State), s.Inv → sameValues s t →
    exec i s = .next s' → exec i t = .next t' → sameValues s' t'

/-- 70_reset_and_hazards.md R211: the first command after reset. `CRC.BYTE` continues from 0xFFFF, `DEC` is
refused with `NoRequest`, `GET.REG` and `GET.BIT` with `IndexRange` for every index, and `ENC` works.
The spec marks the rule as derived from R35. -/
def Obligations.FirstCommandAfterReset : Prop :=
  (∀ b : Byte, exec (.crcByte [b]) State.reset =
    .next { State.reset with crc := crcStep 0xFFFF#16 b, status := 0#4 }) ∧
  (∀ rx : List Byte, exec (.dec rx) State.reset = .next { State.reset with status := 6#4 }) ∧
  (∀ i : Byte, exec (.getReg [i]) State.reset = .next { State.reset with status := 8#4 }) ∧
  (∀ iHi iLo : Byte, exec (.getBit [iHi, iLo]) State.reset = .next { State.reset with status := 8#4 }) ∧
  ∀ h0 h1 h2 h3 h4 h5 : Byte, isFc h1 = true →
    ∃ t, exec (.enc [h0, h1, h2, h3, h4, h5]) State.reset = .next t ∧ t.status = 0#4 ∧ t.txvalid = true

/-- 70_reset_and_hazards.md R216: the premise of an exclusive exchange. Whatever commands other than `ENC` and
`DEC` run between the `ENC` and the `DEC` of an exchange, the request stays as it was, and the `DEC` ends with
the same code, the same length and the same data as if it had followed at once. -/
def Obligations.ExclusiveExchangeIsUndisturbed : Prop :=
  ∀ (between : List Instr) (s t u v : State) (rx : List Byte),
    (∀ i ∈ between, commandRow i ≠ .enc ∧ commandRow i ≠ .dec) → runInstrs between s = .next t →
    exec (.dec rx) s = .next u → exec (.dec rx) t = .next v →
    t.txbuf = s.txbuf ∧ t.txvalid = s.txvalid ∧ v.status = u.status ∧ v.dlen = u.dlen ∧
    ∀ k, k < u.dlen.toNat → v.data[k]? = u.data[k]?

/-- 70_reset_and_hazards.md R215: an `ENC` while a request is pending replaces it without any error. The echo of
the first request is then `EchoMismatchError` on the write path unless the two are identical, and on the read
path any well-formed read response is accepted for the second request. -/
def Obligations.InterleavedRequestIsReplaced : Prop :=
  (∀ (h : List Byte) (s t : State), exec (.enc h) s = .next t → t.status = 0#4 → s.txvalid = true →
    t.txvalid = true ∧ (frameBytes t.txbuf).take 6 = h) ∧
  (∀ (h h' : List Byte) (s t u v : State), h.length = 6 → h'.length = 6 →
    isWriteFc (h.getD 1 0) = true → isWriteFc (h'.getD 1 0) = true →
    exec (.enc h) s = .next t → exec (.enc h') t = .next u →
    exec (.dec (frameBytes t.txbuf)) u = .next v →
    v.status = if h = h' then 0#4 else 4#4) ∧
  ∀ (h : List Byte) (s t : State) (slave function : Byte) (d : List Byte), h.length = 6 →
    isReadFc (h.getD 1 0) = true → d.length ≤ 255 → exec (.enc h) s = .next t →
    ∃ u, exec (.dec (readResponse slave function d)) t = .next u ∧ u.status = 0#4 ∧
      u.dlen = BitVec.ofNat 8 d.length ∧ u.data.take d.length = d

/-! ### Runs -/

/-- 00_scope.md R19, 20_memory.md R50: a run is a finite command sequence, each command executed to completion before
the next. Running `cs ++ ds` is running `cs` and then `ds`; a run always ends, with one `STATUS` value a command, the
`k`-th being the `STATUS` the `k`-th command leaves.
That the steps of the core, with the commands presented in `port`, lead to the same state is the model's own (log
entry 1). -/
def Obligations.RunsAreCommandSequences : Prop :=
  (∀ (cs ds : List Command) (s : State), runCommands (cs ++ ds) s =
    andThen (runCommands cs s) fun r => andThen (runCommands ds r.1) fun q => .next (q.1, r.2 ++ q.2)) ∧
  ∀ (cs : List Command) (s : State), ∃ t codes, runCommands cs s = .next (t, codes) ∧
    codes.length = cs.length ∧
    (∀ k, k < cs.length → ∃ u,
      runCommands (cs.take (k + 1)) s = .next (u, codes.take (k + 1)) ∧ codes[k]? = some u.status) ∧
    ∀ rest : List Command,
      core.run cs.length { s with port := cs ++ rest } = .next { t with port := rest }
end

