-- ==== Sys2Proof/Laws/State.lean ====
section
/-! SUPPORT. One lemma per field per update of the state, and the fields of the reset state, so that no proof unfolds a record update. -/

namespace Sys2Proof.Machine

variable (s : State)

@[simp] theorem writeCrc_crc (c : Word) : (writeCrc c s).crc = c := rfl
@[simp] theorem writeCrc_txbuf (c : Word) : (writeCrc c s).txbuf = s.txbuf := rfl
@[simp] theorem writeCrc_txbufHeld (c : Word) : (writeCrc c s).txbufHeld = s.txbufHeld := rfl
@[simp] theorem writeCrc_txvalid (c : Word) : (writeCrc c s).txvalid = s.txvalid := rfl
@[simp] theorem writeCrc_data (c : Word) : (writeCrc c s).data = s.data := rfl
@[simp] theorem writeCrc_dlen (c : Word) : (writeCrc c s).dlen = s.dlen := rfl
@[simp] theorem writeCrc_status (c : Word) : (writeCrc c s).status = s.status := rfl
@[simp] theorem writeCrc_res (c : Word) : (writeCrc c s).res = s.res := rfl
@[simp] theorem writeCrc_resHeld (c : Word) : (writeCrc c s).resHeld = s.resHeld := rfl
@[simp] theorem writeCrc_port (c : Word) : (writeCrc c s).port = s.port := rfl

@[simp] theorem writeTxbuf_crc (f : Frame) : (writeTxbuf f s).crc = s.crc := rfl
@[simp] theorem writeTxbuf_txbuf (f : Frame) : (writeTxbuf f s).txbuf = f := rfl
@[simp] theorem writeTxbuf_txbufHeld (f : Frame) : (writeTxbuf f s).txbufHeld = true := rfl
@[simp] theorem writeTxbuf_txvalid (f : Frame) : (writeTxbuf f s).txvalid = s.txvalid := rfl
@[simp] theorem writeTxbuf_data (f : Frame) : (writeTxbuf f s).data = s.data := rfl
@[simp] theorem writeTxbuf_dlen (f : Frame) : (writeTxbuf f s).dlen = s.dlen := rfl
@[simp] theorem writeTxbuf_status (f : Frame) : (writeTxbuf f s).status = s.status := rfl
@[simp] theorem writeTxbuf_res (f : Frame) : (writeTxbuf f s).res = s.res := rfl
@[simp] theorem writeTxbuf_resHeld (f : Frame) : (writeTxbuf f s).resHeld = s.resHeld := rfl
@[simp] theorem writeTxbuf_port (f : Frame) : (writeTxbuf f s).port = s.port := rfl

@[simp] theorem writeTxvalid_crc (b : Bool) : (writeTxvalid b s).crc = s.crc := rfl
@[simp] theorem writeTxvalid_txbuf (b : Bool) : (writeTxvalid b s).txbuf = s.txbuf := rfl
@[simp] theorem writeTxvalid_txbufHeld (b : Bool) : (writeTxvalid b s).txbufHeld = s.txbufHeld := rfl
@[simp] theorem writeTxvalid_txvalid (b : Bool) : (writeTxvalid b s).txvalid = b := rfl
@[simp] theorem writeTxvalid_data (b : Bool) : (writeTxvalid b s).data = s.data := rfl
@[simp] theorem writeTxvalid_dlen (b : Bool) : (writeTxvalid b s).dlen = s.dlen := rfl
@[simp] theorem writeTxvalid_status (b : Bool) : (writeTxvalid b s).status = s.status := rfl
@[simp] theorem writeTxvalid_res (b : Bool) : (writeTxvalid b s).res = s.res := rfl
@[simp] theorem writeTxvalid_resHeld (b : Bool) : (writeTxvalid b s).resHeld = s.resHeld := rfl
@[simp] theorem writeTxvalid_port (b : Bool) : (writeTxvalid b s).port = s.port := rfl

@[simp] theorem writeData_crc (bytes : List Byte) : (writeData bytes s).crc = s.crc := rfl
@[simp] theorem writeData_txbuf (bytes : List Byte) : (writeData bytes s).txbuf = s.txbuf := rfl
@[simp] theorem writeData_txbufHeld (bytes : List Byte) : (writeData bytes s).txbufHeld = s.txbufHeld := rfl
@[simp] theorem writeData_txvalid (bytes : List Byte) : (writeData bytes s).txvalid = s.txvalid := rfl
@[simp] theorem writeData_data (bytes : List Byte) : (writeData bytes s).data = bytes ++ s.data.drop bytes.length := rfl
@[simp] theorem writeData_dlen (bytes : List Byte) : (writeData bytes s).dlen = s.dlen := rfl
@[simp] theorem writeData_status (bytes : List Byte) : (writeData bytes s).status = s.status := rfl
@[simp] theorem writeData_res (bytes : List Byte) : (writeData bytes s).res = s.res := rfl
@[simp] theorem writeData_resHeld (bytes : List Byte) : (writeData bytes s).resHeld = s.resHeld := rfl
@[simp] theorem writeData_port (bytes : List Byte) : (writeData bytes s).port = s.port := rfl

@[simp] theorem writeDlen_crc (n : Byte) : (writeDlen n s).crc = s.crc := rfl
@[simp] theorem writeDlen_txbuf (n : Byte) : (writeDlen n s).txbuf = s.txbuf := rfl
@[simp] theorem writeDlen_txbufHeld (n : Byte) : (writeDlen n s).txbufHeld = s.txbufHeld := rfl
@[simp] theorem writeDlen_txvalid (n : Byte) : (writeDlen n s).txvalid = s.txvalid := rfl
@[simp] theorem writeDlen_data (n : Byte) : (writeDlen n s).data = s.data := rfl
@[simp] theorem writeDlen_dlen (n : Byte) : (writeDlen n s).dlen = n := rfl
@[simp] theorem writeDlen_status (n : Byte) : (writeDlen n s).status = s.status := rfl
@[simp] theorem writeDlen_res (n : Byte) : (writeDlen n s).res = s.res := rfl
@[simp] theorem writeDlen_resHeld (n : Byte) : (writeDlen n s).resHeld = s.resHeld := rfl
@[simp] theorem writeDlen_port (n : Byte) : (writeDlen n s).port = s.port := rfl

@[simp] theorem writeStatus_crc (code : BitVec 4) : (writeStatus code s).crc = s.crc := rfl
@[simp] theorem writeStatus_txbuf (code : BitVec 4) : (writeStatus code s).txbuf = s.txbuf := rfl
@[simp] theorem writeStatus_txbufHeld (code : BitVec 4) : (writeStatus code s).txbufHeld = s.txbufHeld := rfl
@[simp] theorem writeStatus_txvalid (code : BitVec 4) : (writeStatus code s).txvalid = s.txvalid := rfl
@[simp] theorem writeStatus_data (code : BitVec 4) : (writeStatus code s).data = s.data := rfl
@[simp] theorem writeStatus_dlen (code : BitVec 4) : (writeStatus code s).dlen = s.dlen := rfl
@[simp] theorem writeStatus_status (code : BitVec 4) : (writeStatus code s).status = code := rfl
@[simp] theorem writeStatus_res (code : BitVec 4) : (writeStatus code s).res = s.res := rfl
@[simp] theorem writeStatus_resHeld (code : BitVec 4) : (writeStatus code s).resHeld = s.resHeld := rfl
@[simp] theorem writeStatus_port (code : BitVec 4) : (writeStatus code s).port = s.port := rfl

@[simp] theorem writeRes_crc (v : Word) : (writeRes v s).crc = s.crc := rfl
@[simp] theorem writeRes_txbuf (v : Word) : (writeRes v s).txbuf = s.txbuf := rfl
@[simp] theorem writeRes_txbufHeld (v : Word) : (writeRes v s).txbufHeld = s.txbufHeld := rfl
@[simp] theorem writeRes_txvalid (v : Word) : (writeRes v s).txvalid = s.txvalid := rfl
@[simp] theorem writeRes_data (v : Word) : (writeRes v s).data = s.data := rfl
@[simp] theorem writeRes_dlen (v : Word) : (writeRes v s).dlen = s.dlen := rfl
@[simp] theorem writeRes_status (v : Word) : (writeRes v s).status = s.status := rfl
@[simp] theorem writeRes_res (v : Word) : (writeRes v s).res = v := rfl
@[simp] theorem writeRes_resHeld (v : Word) : (writeRes v s).resHeld = true := rfl
@[simp] theorem writeRes_port (v : Word) : (writeRes v s).port = s.port := rfl

@[simp] theorem raise_crc (kind : Status) : (raise kind s).crc = s.crc := rfl
@[simp] theorem raise_txbuf (kind : Status) : (raise kind s).txbuf = s.txbuf := rfl
@[simp] theorem raise_txbufHeld (kind : Status) : (raise kind s).txbufHeld = s.txbufHeld := rfl
@[simp] theorem raise_txvalid (kind : Status) : (raise kind s).txvalid = s.txvalid := rfl
@[simp] theorem raise_data (kind : Status) : (raise kind s).data = s.data := rfl
@[simp] theorem raise_dlen (kind : Status) : (raise kind s).dlen = s.dlen := rfl
@[simp] theorem raise_status (kind : Status) : (raise kind s).status = statusCode kind := rfl
@[simp] theorem raise_res (kind : Status) : (raise kind s).res = s.res := rfl
@[simp] theorem raise_resHeld (kind : Status) : (raise kind s).resHeld = s.resHeld := rfl
@[simp] theorem raise_port (kind : Status) : (raise kind s).port = s.port := rfl

@[simp] theorem complete_crc : (complete s).crc = s.crc := rfl
@[simp] theorem complete_txbuf : (complete s).txbuf = s.txbuf := rfl
@[simp] theorem complete_txbufHeld : (complete s).txbufHeld = s.txbufHeld := rfl
@[simp] theorem complete_txvalid : (complete s).txvalid = s.txvalid := rfl
@[simp] theorem complete_data : (complete s).data = s.data := rfl
@[simp] theorem complete_dlen : (complete s).dlen = s.dlen := rfl
@[simp] theorem complete_status : (complete s).status = 0#4 := rfl
@[simp] theorem complete_res : (complete s).res = s.res := rfl
@[simp] theorem complete_resHeld : (complete s).resHeld = s.resHeld := rfl
@[simp] theorem complete_port : (complete s).port = s.port := rfl

@[simp] theorem illegalCommand_crc : (illegalCommand s).crc = s.crc := rfl
@[simp] theorem illegalCommand_txbuf : (illegalCommand s).txbuf = s.txbuf := rfl
@[simp] theorem illegalCommand_txbufHeld : (illegalCommand s).txbufHeld = s.txbufHeld := rfl
@[simp] theorem illegalCommand_txvalid : (illegalCommand s).txvalid = s.txvalid := rfl
@[simp] theorem illegalCommand_data : (illegalCommand s).data = s.data := rfl
@[simp] theorem illegalCommand_dlen : (illegalCommand s).dlen = s.dlen := rfl
@[simp] theorem illegalCommand_status : (illegalCommand s).status = 7#4 := rfl
@[simp] theorem illegalCommand_res : (illegalCommand s).res = s.res := rfl
@[simp] theorem illegalCommand_resHeld : (illegalCommand s).resHeld = s.resHeld := rfl
@[simp] theorem illegalCommand_port : (illegalCommand s).port = s.port := rfl

@[simp] theorem presentCommand_crc (c : Command) : (presentCommand c s).crc = s.crc := rfl
@[simp] theorem presentCommand_txbuf (c : Command) : (presentCommand c s).txbuf = s.txbuf := rfl
@[simp] theorem presentCommand_txbufHeld (c : Command) : (presentCommand c s).txbufHeld = s.txbufHeld := rfl
@[simp] theorem presentCommand_txvalid (c : Command) : (presentCommand c s).txvalid = s.txvalid := rfl
@[simp] theorem presentCommand_data (c : Command) : (presentCommand c s).data = s.data := rfl
@[simp] theorem presentCommand_dlen (c : Command) : (presentCommand c s).dlen = s.dlen := rfl
@[simp] theorem presentCommand_status (c : Command) : (presentCommand c s).status = s.status := rfl
@[simp] theorem presentCommand_res (c : Command) : (presentCommand c s).res = s.res := rfl
@[simp] theorem presentCommand_resHeld (c : Command) : (presentCommand c s).resHeld = s.resHeld := rfl
@[simp] theorem presentCommand_port (c : Command) : (presentCommand c s).port = c :: s.port := rfl

@[simp] theorem reset_crc : State.reset.crc = 0xFFFF#16 := rfl
@[simp] theorem reset_txbufHeld : State.reset.txbufHeld = false := rfl
@[simp] theorem reset_txvalid : State.reset.txvalid = false := rfl
@[simp] theorem reset_data : State.reset.data = [] := rfl
@[simp] theorem reset_dlen : State.reset.dlen = 0#8 := rfl
@[simp] theorem reset_status : State.reset.status = 0#4 := rfl
@[simp] theorem reset_resHeld : State.reset.resHeld = false := rfl
@[simp] theorem reset_port : State.reset.port = [] := rfl

end Sys2Proof.Machine
end

