-- ==== Sys2Proof/Laws/Crc.lean ====
section
/-! SUPPORT. The small laws of the CRC function: the accumulator as a fold, one byte at a time, and the parts of a frame that ends in two given bytes (40_crc.md R91, R92, R97). -/

namespace Sys2Proof.Machine

theorem crcShifts_zero (c : Word) : crcShifts 0 c = c := rfl

theorem crcShifts_succ (n : Nat) (c : Word) : crcShifts (n + 1) c = crcShifts n (crcShift c) := rfl

@[simp] theorem crcFrom_nil (c : Word) : crcFrom c [] = c := rfl

@[simp] theorem crcFrom_cons (c : Word) (b : Byte) (s : List Byte) :
    crcFrom c (b :: s) = crcFrom (crcStep c b) s := rfl

theorem crcFrom_append (c : Word) (s t : List Byte) : crcFrom c (s ++ t) = crcFrom (crcFrom c s) t :=
  List.foldl_append

/-- "No final XOR": `crc16` is the accumulator itself. -/
theorem crc16_eq_crcFrom (s : List Byte) : crc16 s = crcFrom 0xFFFF#16 s := by
  simp [crc16, Config.crcInit, Config.crcXorOut]

@[simp] theorem crc16_nil : crc16 [] = 0xFFFF#16 := rfl

/-- The covered part of a frame that ends in two bytes is what stands before them. -/
@[simp] theorem crcCovered_append_pair (s : List Byte) (lo hi : Byte) : crcCovered (s ++ [lo, hi]) = s := by
  simp [crcCovered]

/-- The CRC a frame carries is made of its last two bytes, the last one the more significant. -/
@[simp] theorem receivedCrc_append_pair (s : List Byte) (lo hi : Byte) :
    receivedCrc (s ++ [lo, hi]) = be16 hi lo := by
  simp [receivedCrc, byteAt]

/-- The frame check of a frame that ends in two bytes (R92, R98). -/
theorem crcOk_append_pair (s : List Byte) (lo hi : Byte) :
    crcOk (s ++ [lo, hi]) = (crc16 s == be16 hi lo) := by
  simp [crcOk]

end Sys2Proof.Machine
end

