-- ==== Sys2Proof/Laws/Decode.lean ====
section
/-! SUPPORT. The byte-order helpers undo each other, and what the decoder answers at each command code (30_encoding.md R66, R74). -/

namespace Sys2Proof

/-- Bit `i` of `{hi, lo}` (00_scope.md R10). -/
theorem getLsbD_be16 (hi lo : Byte) (i : Nat) :
    (be16 hi lo).getLsbD i = if i < 8 then lo.getLsbD i else hi.getLsbD (i - 8) := by
  exact (BitVec.getLsbD_append (x := hi) (y := lo)).trans (by split <;> simp_all)

@[simp] theorem hi8_be16 (hi lo : Byte) : hi8 (be16 hi lo) = hi := by
  apply BitVec.eq_of_getLsbD_eq
  intro i h
  simp [hi8, getLsbD_be16, h]

@[simp] theorem lo8_be16 (hi lo : Byte) : lo8 (be16 hi lo) = lo := by
  apply BitVec.eq_of_getLsbD_eq
  intro i h
  simp [lo8, getLsbD_be16, h]

@[simp] theorem be16_hi8_lo8 (v : Word) : be16 (hi8 v) (lo8 v) = v := by
  apply BitVec.eq_of_getLsbD_eq
  intro i h
  rw [getLsbD_be16]
  split
  · rename_i h8
    simp [lo8, h8]
  · have h8 : i - 8 < 8 := by omega
    have hi : 8 + (i - 8) = i := by omega
    simp [hi8, h8, hi]

theorem be16_inj {hi lo hi' lo' : Byte} (h : be16 hi lo = be16 hi' lo') : hi = hi' ∧ lo = lo' :=
  ⟨by simpa using congrArg hi8 h, by simpa using congrArg lo8 h⟩

/-- A six-byte `ENC` argument is decoded by its function byte (R69). -/
theorem decodeEnc_six (h0 h1 h2 h3 h4 h5 : Byte) :
    decodeEnc [h0, h1, h2, h3, h4, h5] =
      if h1 = 0x01#8 then .encRdc h0 (be16 h2 h3) (be16 h4 h5)
      else if h1 = 0x02#8 then .encRdi h0 (be16 h2 h3) (be16 h4 h5)
      else if h1 = 0x03#8 then .encRdh h0 (be16 h2 h3) (be16 h4 h5)
      else if h1 = 0x05#8 then .encWrb h0 (be16 h2 h3) (be16 h4 h5)
      else if h1 = 0x06#8 then .encWrr h0 (be16 h2 h3) (be16 h4 h5)
      else .encRaw h0 h1 h2 h3 h4 h5 := rfl

/-- An `ENC` argument of another length stays as it is (R75). -/
theorem decodeEnc_of_length_ne {arg : List Byte} (h : arg.length ≠ 6) : decodeEnc arg = .enc arg := by
  unfold decodeEnc
  split
  · simp at h
  · rfl

/-- A list of six elements, named. -/
theorem exists_six_of_length {α : Type} {l : List α} (h : l.length = 6) :
    ∃ a b c d e f, l = [a, b, c, d, e, f] := by
  match l, h with
  | [a, b, c, d, e, f], _ => exact ⟨a, b, c, d, e, f, rfl⟩

end Sys2Proof
end

