-- ==== Sys2Proof/Laws/Ops.lean ====
section
/-! SUPPORT. What each shared operation can do, said once: the cases of the encoder, of the two paths of the decoder and of the fetches, and that every meaning answers a next state (00_scope.md R18). -/

namespace Sys2Proof.Machine

/-- `ENC` with a header builds a frame or is refused (41_encode.md R110, R116). -/
theorem encodeRequest_cases (a b c d e f : Byte) (s : State) :
    (isFc b = true ∧ encodeRequest a b c d e f s = { s with
      txbuf := requestFrame a b c d e f, txbufHeld := true, txvalid := true,
      crc := crc16 [a, b, c, d, e, f], status := 0#4 }) ∨
    (isFc b = false ∧ encodeRequest a b c d e f s = { s with status := 5#4 }) := by
  unfold encodeRequest
  cases h : isFc b
  · exact .inr ⟨rfl, rfl⟩
  · exact .inl ⟨rfl, rfl⟩

/-- The read path ends in one of four ways (42_decode.md R131). -/
theorem readPath_cases (rx : List Byte) (s : State) :
    (rx.length = 0 ∧ readPath rx s = { s with dlen := 0#8, status := 1#4 }) ∨
    (rx.length ≠ 0 ∧ (rx.length < 5 ∨ rx.length ≠ 5 + (byteCount rx).toNat) ∧
      readPath rx s = { s with dlen := 0#8, status := 3#4 }) ∨
    (rx.length = 5 + (byteCount rx).toNat ∧ crc16 (crcCovered rx) ≠ receivedCrc rx ∧
      readPath rx s = { s with crc := crc16 (crcCovered rx), dlen := 0#8, status := 2#4 }) ∨
    (rx.length = 5 + (byteCount rx).toNat ∧ crc16 (crcCovered rx) = receivedCrc rx ∧
      readPath rx s = { s with
        crc := crc16 (crcCovered rx), data := payload rx ++ s.data.drop (payload rx).length,
        dlen := byteCount rx, status := 0#4 }) := by
  unfold readPath
  by_cases h0 : rx.length = 0
  · exact .inl ⟨h0, by rw [if_pos h0]; rfl⟩
  rw [if_neg h0]
  by_cases h1 : rx.length < 5
  · exact .inr (.inl ⟨h0, .inl h1, by rw [if_pos (show rx.length < Config.rdRspMin from h1)]; rfl⟩)
  rw [if_neg (show ¬rx.length < Config.rdRspMin from h1)]
  by_cases h2 : rx.length = 5 + (byteCount rx).toNat
  · rw [if_neg (not_not.mpr (show rx.length = Config.rdRspMin + _ from h2))]
    by_cases h3 : crc16 (crcCovered rx) = receivedCrc rx
    · exact .inr (.inr (.inr ⟨h2, h3, by rw [if_pos h3]; rfl⟩))
    · exact .inr (.inr (.inl ⟨h2, h3, by rw [if_neg h3]; rfl⟩))
  · exact .inr (.inl ⟨h0, .inr h2, by rw [if_pos (show rx.length ≠ Config.rdRspMin + _ from h2)]; rfl⟩)

/-- The write path ends in one of five ways (42_decode.md R132). -/
theorem writePath_cases (rx : List Byte) (s : State) :
    (rx.length = 0 ∧ writePath rx s = { s with dlen := 0#8, status := 1#4 }) ∨
    (rx.length ≠ 0 ∧ rx.length ≠ 8 ∧ writePath rx s = { s with dlen := 0#8, status := 3#4 }) ∨
    (rx.length = 8 ∧ crc16 (crcCovered rx) ≠ receivedCrc rx ∧
      writePath rx s = { s with crc := crc16 (crcCovered rx), dlen := 0#8, status := 2#4 }) ∨
    (rx.length = 8 ∧ crc16 (crcCovered rx) = receivedCrc rx ∧ rx.take 6 ≠ frameHeader s.txbuf ∧
      writePath rx s = { s with crc := crc16 (crcCovered rx), dlen := 0#8, status := 4#4 }) ∨
    (rx.length = 8 ∧ crc16 (crcCovered rx) = receivedCrc rx ∧ rx.take 6 = frameHeader s.txbuf ∧
      writePath rx s = { s with crc := crc16 (crcCovered rx), dlen := 0#8, status := 0#4 }) := by
  unfold writePath
  by_cases h0 : rx.length = 0
  · exact .inl ⟨h0, by rw [if_pos h0]; rfl⟩
  rw [if_neg h0]
  by_cases h1 : rx.length = 8
  · rw [if_neg (not_not.mpr (show rx.length = Config.wrRspLen from h1))]
    by_cases h2 : crc16 (crcCovered rx) = receivedCrc rx
    · rw [if_pos h2]
      by_cases h3 : rx.take 6 = frameHeader s.txbuf
      · exact .inr (.inr (.inr (.inr ⟨h1, h2, h3, by rw [if_pos (show rx.take Config.headerLen = _ from h3)]; rfl⟩)))
      · exact .inr (.inr (.inr (.inl ⟨h1, h2, h3, by rw [if_neg (show ¬rx.take Config.headerLen = _ from h3)]; rfl⟩)))
    · exact .inr (.inr (.inl ⟨h1, h2, by rw [if_neg h2]; rfl⟩))
  · exact .inr (.inl ⟨h0, h1, by rw [if_pos (show rx.length ≠ Config.wrRspLen from h1)]; rfl⟩)

/-- `DEC` without a pending request is refused (42_decode.md R130). -/
theorem decodeResponse_of_no_request {rx : List Byte} {s : State} (h : s.txvalid = false) :
    decodeResponse rx s = { s with status := 6#4 } := by
  unfold decodeResponse
  rw [if_neg (by simp [h])]
  rfl

/-- `DEC` of a pending read request takes the read path. -/
theorem decodeResponse_of_read {rx : List Byte} {s : State} (h : s.txvalid = true)
    (hf : isReadFc s.txbuf.function = true) :
    decodeResponse rx s = readPath rx (writeTxvalid false s) := by
  simp [decodeResponse, h, hf]

/-- `DEC` of a pending write request takes the write path. -/
theorem decodeResponse_of_write {rx : List Byte} {s : State} (h : s.txvalid = true)
    (hf : isReadFc s.txbuf.function = false) :
    decodeResponse rx s = writePath rx (writeTxvalid false s) := by
  simp [decodeResponse, h, hf]

/-- `GET.REG` fetches below `DLEN` and is refused from it on (43_typed_access.md R150). -/
theorem fetchRegister_cases (i : Nat) (s : State) :
    (2 * i + 1 < s.dlen.toNat ∧
      fetchRegister i s = { s with res := dataRegister s i, resHeld := true, status := 0#4 }) ∨
    (s.dlen.toNat ≤ 2 * i + 1 ∧ fetchRegister i s = { s with status := 8#4 }) := by
  unfold fetchRegister
  split
  · exact .inr ⟨‹_›, rfl⟩
  · exact .inl ⟨by omega, rfl⟩

/-- `GET.BIT` fetches below `DLEN` and is refused from it on (43_typed_access.md R151). -/
theorem fetchBit_cases (i : Nat) (s : State) :
    (i / 8 < s.dlen.toNat ∧
      fetchBit i s = { s with res := bitWord (dataBit s i), resHeld := true, status := 0#4 }) ∨
    (s.dlen.toNat ≤ i / 8 ∧ fetchBit i s = { s with status := 8#4 }) := by
  unfold fetchBit
  split
  · exact .inr ⟨‹_›, rfl⟩
  · exact .inl ⟨by omega, rfl⟩

/-- The data of a response whose length is right is `byte_count` bytes long (42_decode.md R131). -/
theorem payload_length {rx : List Byte} (h : rx.length = 5 + (byteCount rx).toNat) :
    (payload rx).length = (byteCount rx).toNat := by
  simp [payload]
  omega

/-- Storing at most 255 bytes keeps `DATA` within its 255 bytes (10_state.md R20). -/
theorem writeData_size {bytes : List Byte} {s : State} (hb : bytes.length ≤ 255) (hs : s.data.length ≤ 255) :
    (writeData bytes s).data.length ≤ 255 := by
  simp
  omega

/-- A stored byte reads as it was stored. -/
theorem writeData_stored (bytes : List Byte) (s : State) {k : Nat} (h : k < bytes.length) :
    (writeData bytes s).data[k]? = bytes[k]? := by
  simp [List.getElem?_append_left h]

/-- Storing leaves every byte past the stored ones alone. -/
theorem writeData_other (bytes : List Byte) (s : State) {k : Nat} (h : bytes.length ≤ k) :
    (writeData bytes s).data[k]? = s.data[k]? := by
  simp [List.getElem?_append_right h, Nat.add_sub_cancel' h]

/-- Every meaning answers a next state. -/
theorem exec_next (i : Instr) (s : State) : ∃ t, exec i s = .next t := by
  cases i <;>
    simp only [exec, execEncRdc, execEncRdi, execEncRdh, execEncWrb, execEncWrr, execEncRaw, execCrcInit,
      execCrcByte, execCrcBlock, execCrcCheck, execEnc, execDec, execGetReg, execGetBit, execReserved0,
      execReserved9, execReservedA, execReservedB, execReservedC, execReservedD, execReservedE,
      execReservedF] <;>
    (repeat' split) <;> exact ⟨_, rfl⟩

end Sys2Proof.Machine
end

