-- ==== Sys2Proof/Laws/Exec.lean ====
section
/-! SUPPORT. What one command can do, said once: the cases of `DEC`, the two outcomes of each header, and the inversion of `exec` by the rows of the matrices (10_state.md R33, 60_exceptions.md R185). Later proofs cite these and unfold no meaning. -/

namespace Sys2Proof.Machine

/-- The state an accepted header leads to (41_encode.md R110). -/
def builtState (a b c d e f : Byte) (s : State) : State :=
  { s with txbuf := requestFrame a b c d e f, txbufHeld := true, txvalid := true,
           crc := crc16 [a, b, c, d, e, f], status := 0#4 }

theorem encodeRequest_of_supported {a b c d e f : Byte} {s : State} (h : isFc b = true) :
    encodeRequest a b c d e f s = builtState a b c d e f s := by
  simp [encodeRequest, h, builtState, complete, writeStatus, writeCrc, writeTxvalid, writeTxbuf, statusCode]

theorem encodeRequest_of_unsupported {a b c d e f : Byte} {s : State} (h : isFc b = false) :
    encodeRequest a b c d e f s = { s with status := 5#4 } := by
  simp [encodeRequest, h, raise, writeStatus, statusCode]

/-- A request frame is its header with its CRC, so it passes the frame check (41_encode.md R117). -/
theorem frameBytes_requestFrame (a b c d e f : Byte) :
    frameBytes (requestFrame a b c d e f) = withCrc [a, b, c, d, e, f] := rfl

/-- `DEC` is refused, or takes one of the two paths with the request no longer pending (42_decode.md R130). -/
theorem decodeResponse_cases (rx : List Byte) (s : State) :
    (s.txvalid = false ∧ decodeResponse rx s = { s with status := 6#4 }) ∨
    (s.txvalid = true ∧ isReadFc s.txbuf.function = true ∧
      decodeResponse rx s = readPath rx (writeTxvalid false s)) ∨
    (s.txvalid = true ∧ isReadFc s.txbuf.function = false ∧
      decodeResponse rx s = writePath rx (writeTxvalid false s)) := by
  rcases Bool.eq_false_or_eq_true s.txvalid with h | h
  · rcases Bool.eq_false_or_eq_true (isReadFc s.txbuf.function) with hf | hf
    · exact .inr (.inl ⟨h, hf, decodeResponse_of_read h hf⟩)
    · exact .inr (.inr ⟨h, hf, decodeResponse_of_write h hf⟩)
  · exact .inl ⟨h, decodeResponse_of_no_request h⟩

theorem next_injective {a b : State} (h : (Host.Outcome.next a : Host.Outcome State Fault Refusal) = .next b) :
    a = b := by injection h

/-- What a command other than `DEC` and the two `GET`s does in every state, with the outcome it has in one. -/
inductive Effect (i : Instr) (s : State) : State → Prop where
  /-- A reserved code or a wrong argument length (30_encoding.md R75). -/
  | illegal (row : commandRow i ∉ [.crcBlock, .crcCheck, .dec])
      (all : ∀ u, exec i u = .next { u with status := 7#4 }) : Effect i s { s with status := 7#4 }
  /-- `CRC.INIT`. -/
  | crcInit (row : commandRow i = .crcInit)
      (all : ∀ u, exec i u = .next { u with crc := 0xFFFF#16, status := 0#4 }) :
      Effect i s { s with crc := 0xFFFF#16, status := 0#4 }
  /-- `CRC.BYTE`. -/
  | crcByte (b : Byte) (row : commandRow i = .crcByte)
      (all : ∀ u, exec i u = .next { u with crc := crcStep u.crc b, status := 0#4 }) :
      Effect i s { s with crc := crcStep s.crc b, status := 0#4 }
  /-- `CRC.BLOCK`. -/
  | crcBlock (c : Word) (row : commandRow i = .crcBlock)
      (all : ∀ u, exec i u = .next { u with crc := c, status := 0#4 }) :
      Effect i s { s with crc := c, status := 0#4 }
  /-- `CRC.CHECK` of fewer than two bytes. -/
  | crcCheckShort (row : commandRow i = .crcCheck)
      (all : ∀ u, exec i u = .next { u with status := 3#4 }) : Effect i s { s with status := 3#4 }
  /-- `CRC.CHECK` of two bytes or more. -/
  | crcCheck (c : Word) (k : BitVec 4) (row : commandRow i = .crcCheck) (code : k = 0#4 ∨ k = 2#4)
      (all : ∀ u, exec i u = .next { u with crc := c, status := k }) : Effect i s { s with crc := c, status := k }
  /-- `ENC` of a supported function. -/
  | built (a b c d e f : Byte) (row : commandRow i = .enc) (supported : isFc b = true)
      (all : ∀ u, exec i u = .next (builtState a b c d e f u)) : Effect i s (builtState a b c d e f s)
  /-- `ENC` of an unsupported function. -/
  | unsupported (row : commandRow i = .enc)
      (all : ∀ u, exec i u = .next { u with status := 5#4 }) : Effect i s { s with status := 5#4 }
  /-- `DEC`. -/
  | dec (rx : List Byte) (eq : i = .dec rx) : Effect i s (decodeResponse rx s)
  /-- `GET.REG` of one index byte. -/
  | getReg (k : Byte) (eq : i = .getReg [k]) : Effect i s (fetchRegister k.toNat s)
  /-- `GET.BIT` of two index bytes. -/
  | getBit (hi lo : Byte) (eq : i = .getBit [hi, lo]) : Effect i s (fetchBit (be16 hi lo).toNat s)

/-- An `ENC` with a six-byte header, in every state. -/
theorem effect_of_header {i : Instr} {s : State} (a b c d e f : Byte) (row : commandRow i = .enc)
    (all : ∀ u, exec i u = .next (encodeRequest a b c d e f u)) : Effect i s (encodeRequest a b c d e f s) := by
  cases hb : isFc b
  · rw [encodeRequest_of_unsupported hb]
    exact .unsupported row fun u => (all u).trans (congrArg _ (encodeRequest_of_unsupported hb))
  · rw [encodeRequest_of_supported hb]
    exact .built a b c d e f row hb fun u => (all u).trans (congrArg _ (encodeRequest_of_supported hb))

theorem exec_enc_of_length_ne {arg : List Byte} (h : arg.length ≠ 6) (s : State) :
    exec (.enc arg) s = .next { s with status := 7#4 } := by
  simp only [exec, execEnc]
  split
  · simp at h
  · rfl

theorem exec_crcCheck_short {f : List Byte} (h : f.length < 2) (s : State) :
    exec (.crcCheck f) s = .next { s with status := 3#4 } := by
  simp only [exec, execCrcCheck, if_pos h]
  rfl

theorem exec_crcCheck_bad {f : List Byte} (h : ¬f.length < 2) (hc : crcOk f = false) (s : State) :
    exec (.crcCheck f) s = .next { s with crc := crc16 (crcCovered f), status := 2#4 } := by
  simp only [exec, execCrcCheck, if_neg h, hc]
  rfl

theorem exec_crcCheck_good {f : List Byte} (h : ¬f.length < 2) (hc : crcOk f = true) (s : State) :
    exec (.crcCheck f) s = .next { s with crc := crc16 (crcCovered f), status := 0#4 } := by
  simp only [exec, execCrcCheck, if_neg h, hc]
  rfl

/-- The inversion of `exec`: one case per kind of effect. -/
theorem exec_effect {i : Instr} {s t : State} (h : exec i s = .next t) : Effect i s t := by
  cases i with
  | encRdc a b c => exact next_injective h ▸ effect_of_header _ _ _ _ _ _ rfl fun _ => rfl
  | encRdi a b c => exact next_injective h ▸ effect_of_header _ _ _ _ _ _ rfl fun _ => rfl
  | encRdh a b c => exact next_injective h ▸ effect_of_header _ _ _ _ _ _ rfl fun _ => rfl
  | encWrb a b c => exact next_injective h ▸ effect_of_header _ _ _ _ _ _ rfl fun _ => rfl
  | encWrr a b c => exact next_injective h ▸ effect_of_header _ _ _ _ _ _ rfl fun _ => rfl
  | encRaw a b c d e f => exact next_injective h ▸ effect_of_header _ _ _ _ _ _ rfl fun _ => rfl
  | enc arg =>
    by_cases h6 : arg.length = 6
    · obtain ⟨a, b, c, d, e, f, rfl⟩ := exists_six_of_length h6
      exact next_injective h ▸ effect_of_header _ _ _ _ _ _ rfl fun _ => rfl
    · rw [exec_enc_of_length_ne h6] at h
      exact next_injective h ▸ .illegal (by simp [commandRow]) (exec_enc_of_length_ne h6)
  | crcInit arg =>
    cases arg with
    | nil => exact next_injective h ▸ .crcInit rfl fun _ => rfl
    | cons a l => exact next_injective h ▸ .illegal (by simp [commandRow]) fun _ => rfl
  | crcByte arg =>
    match arg, h with
    | [], h => exact next_injective h ▸ .illegal (by simp [commandRow]) fun _ => rfl
    | [b], h => exact next_injective h ▸ .crcByte b rfl fun _ => rfl
    | _ :: _ :: _, h => exact next_injective h ▸ .illegal (by simp [commandRow]) fun _ => rfl
  | crcBlock bytes => exact next_injective h ▸ .crcBlock _ rfl fun _ => rfl
  | crcCheck f =>
    by_cases h2 : f.length < 2
    · rw [exec_crcCheck_short h2] at h
      exact next_injective h ▸ .crcCheckShort rfl (exec_crcCheck_short h2)
    · cases hc : crcOk f
      · rw [exec_crcCheck_bad h2 hc] at h
        exact next_injective h ▸ .crcCheck _ _ rfl (.inr rfl) (exec_crcCheck_bad h2 hc)
      · rw [exec_crcCheck_good h2 hc] at h
        exact next_injective h ▸ .crcCheck _ _ rfl (.inl rfl) (exec_crcCheck_good h2 hc)
  | dec rx => exact next_injective h ▸ .dec rx rfl
  | getReg arg =>
    match arg, h with
    | [], h => exact next_injective h ▸ .illegal (by simp [commandRow]) fun _ => rfl
    | [k], h => exact next_injective h ▸ .getReg k rfl
    | _ :: _ :: _, h => exact next_injective h ▸ .illegal (by simp [commandRow]) fun _ => rfl
  | getBit arg =>
    match arg, h with
    | [], h => exact next_injective h ▸ .illegal (by simp [commandRow]) fun _ => rfl
    | [_], h => exact next_injective h ▸ .illegal (by simp [commandRow]) fun _ => rfl
    | [a, b], h => exact next_injective h ▸ .getBit a b rfl
    | _ :: _ :: _ :: _, h => exact next_injective h ▸ .illegal (by simp [commandRow]) fun _ => rfl
  | reserved0 arg => exact next_injective h ▸ .illegal (by simp [commandRow]) fun _ => rfl
  | reserved9 arg => exact next_injective h ▸ .illegal (by simp [commandRow]) fun _ => rfl
  | reservedA arg => exact next_injective h ▸ .illegal (by simp [commandRow]) fun _ => rfl
  | reservedB arg => exact next_injective h ▸ .illegal (by simp [commandRow]) fun _ => rfl
  | reservedC arg => exact next_injective h ▸ .illegal (by simp [commandRow]) fun _ => rfl
  | reservedD arg => exact next_injective h ▸ .illegal (by simp [commandRow]) fun _ => rfl
  | reservedE arg => exact next_injective h ▸ .illegal (by simp [commandRow]) fun _ => rfl
  | reservedF arg => exact next_injective h ▸ .illegal (by simp [commandRow]) fun _ => rfl

end Sys2Proof.Machine
end

