-- ==== Sys2Proof/Laws/Host.lean ====
section
/-! SUPPORT. The small lemmas of what the host does: reading each register, going on from a command, running a list, and the two ways an exchange goes. Later proofs cite these and unfold none of the definitions. -/

namespace Sys2Proof.Machine

variable (s : State)

/-! ### Host reads (10_state.md R34, R36) -/

@[simp] theorem hostRead_crc : hostRead .crc s = .ok s.crc := rfl
@[simp] theorem hostRead_txvalid : hostRead .txvalid s = .ok (bitWord s.txvalid) := rfl
@[simp] theorem hostRead_dlen : hostRead .dlen s = .ok (s.dlen.setWidth 16) := rfl
@[simp] theorem hostRead_status : hostRead .status s = .ok (s.status.setWidth 16) := rfl

theorem hostRead_txbuf (k : Fin 8) : hostRead (.txbuf k) s =
    if s.txbufHeld then .ok ((byteAt (frameBytes s.txbuf) k.val).setWidth 16) else .error (.noValue (.txbuf k)) := rfl

theorem hostRead_data (k : Fin 255) : hostRead (.data k) s =
    if k.val < s.dlen.toNat then .ok ((dataByte s k.val).setWidth 16) else .error (.noValue (.data k)) := rfl

theorem hostRead_res : hostRead .res s = if s.resHeld then .ok s.res else .error (.noValue .res) := rfl

/-! ### Runs (00_scope.md R19) -/

@[simp] theorem andThen_next {α β : Type} (a : α) (f : α → Host.Outcome β Fault Refusal) :
    andThen (.next a) f = f a := rfl

theorem andThen_assoc {α β γ : Type} (o : Host.Outcome α Fault Refusal) (f : α → Host.Outcome β Fault Refusal)
    (g : β → Host.Outcome γ Fault Refusal) : andThen (andThen o f) g = andThen o fun a => andThen (f a) g := by
  cases o <;> rfl

@[simp] theorem runInstrs_nil : runInstrs [] s = .next s := rfl

@[simp] theorem runInstrs_cons (i : Instr) (is : List Instr) :
    runInstrs (i :: is) s = andThen (exec i s) (runInstrs is) := rfl

@[simp] theorem runCommands_nil : runCommands [] s = .next (s, []) := rfl

@[simp] theorem runCommands_cons (c : Command) (cs : List Command) :
    runCommands (c :: cs) s = andThen (exec (decode c) s) fun t =>
      andThen (runCommands cs t) fun r => .next (r.1, t.status :: r.2) := rfl

/-- The core's run, as `andThen` of its steps. -/
theorem run_succ (k : Nat) : core.run (k + 1) s = andThen (step s) fun t => core.run k t := by
  simp only [Host.Core.run, core]
  cases step s <;> rfl

/-! ### Exchanges (43_typed_access.md R153, 60_exceptions.md R183) -/

variable {s}

/-- A failed transfer ends the exchange where the request left it. -/
theorem exchange_transportError {α : Type} {request : Instr} {t : State} (h : exec request s = .next t)
    (accepted : State → HostOutcome α) :
    exchange request .transportError s accepted = .next (.transportError, t) := by
  simp only [exchange, h, andThen_next]

/-- A received response is decoded, and the exchange goes on when `STATUS` is 0. -/
theorem exchange_received {α : Type} {request : Instr} {t u : State} {rx : List Byte}
    (h : exec request s = .next t) (hd : exec (.dec rx) t = .next u) (accepted : State → HostOutcome α) :
    exchange request (.received rx) s accepted =
      if u.status = 0#4 then accepted u else .next (.error u.status, u) := by
  simp only [exchange, h, hd, andThen_next]
  rfl

end Sys2Proof.Machine
end

