-- ==== Sys2Proof/Laws/PerInstr.lean ====
section
/-! SUPPORT. Statements made for every instruction, one lemma per constructor of `Instr`. -/

namespace Sys2Proof.Laws.LengthRule

-- One lemma at a time: checked in parallel, the lemmas below ask for a thread each.
set_option Elab.async false

/-- The length rule of 30_encoding.md R74 and R75: the command a well-formed instruction is written as has
exactly as many argument bytes as its code fixes, where it fixes a number. -/
def Statement (i : Instr) : Prop :=
  i.wellFormed = true → ∀ n, argLen (encode i).cmd = some n → (encode i).arg.length = n

theorem encRdc (slave : Byte) (addr count : Word) : Statement (.encRdc slave addr count) := by
  simp [Statement, encode, headerBytes, argLen, Config.headerLen]

theorem encRdi (slave : Byte) (addr count : Word) : Statement (.encRdi slave addr count) := by
  simp [Statement, encode, headerBytes, argLen, Config.headerLen]

theorem encRdh (slave : Byte) (addr count : Word) : Statement (.encRdh slave addr count) := by
  simp [Statement, encode, headerBytes, argLen, Config.headerLen]

theorem encWrb (slave : Byte) (addr value : Word) : Statement (.encWrb slave addr value) := by
  simp [Statement, encode, headerBytes, argLen, Config.headerLen]

theorem encWrr (slave : Byte) (addr value : Word) : Statement (.encWrr slave addr value) := by
  simp [Statement, encode, headerBytes, argLen, Config.headerLen]

theorem encRaw (h0 h1 h2 h3 h4 h5 : Byte) : Statement (.encRaw h0 h1 h2 h3 h4 h5) := by
  simp [Statement, encode, argLen, Config.headerLen]

theorem crcInit (arg : List Byte) : Statement (.crcInit arg) := by
  simp [Statement, Instr.wellFormed, encode, argLen]

theorem crcByte (arg : List Byte) : Statement (.crcByte arg) := by
  simp [Statement, Instr.wellFormed, encode, argLen]

theorem crcBlock (bytes : List Byte) : Statement (.crcBlock bytes) := by
  simp [Statement, encode, argLen]

theorem crcCheck (frame : List Byte) : Statement (.crcCheck frame) := by
  simp [Statement, encode, argLen]

theorem enc (arg : List Byte) : Statement (.enc arg) := by
  simp [Statement, Instr.wellFormed, encode, argLen]

theorem dec (rx : List Byte) : Statement (.dec rx) := by
  simp [Statement, encode, argLen]

theorem getReg (arg : List Byte) : Statement (.getReg arg) := by
  simp [Statement, Instr.wellFormed, encode, argLen]

theorem getBit (arg : List Byte) : Statement (.getBit arg) := by
  simp [Statement, Instr.wellFormed, encode, argLen]

theorem reserved0 (arg : List Byte) : Statement (.reserved0 arg) := by
  simp [Statement, encode, argLen]

theorem reserved9 (arg : List Byte) : Statement (.reserved9 arg) := by
  simp [Statement, encode, argLen]

theorem reservedA (arg : List Byte) : Statement (.reservedA arg) := by
  simp [Statement, encode, argLen]

theorem reservedB (arg : List Byte) : Statement (.reservedB arg) := by
  simp [Statement, encode, argLen]

theorem reservedC (arg : List Byte) : Statement (.reservedC arg) := by
  simp [Statement, encode, argLen]

theorem reservedD (arg : List Byte) : Statement (.reservedD arg) := by
  simp [Statement, encode, argLen]

theorem reservedE (arg : List Byte) : Statement (.reservedE arg) := by
  simp [Statement, encode, argLen]

theorem reservedF (arg : List Byte) : Statement (.reservedF arg) := by
  simp [Statement, encode, argLen]

end Sys2Proof.Laws.LengthRule
end

