-- ==== Sys2Proof/Tests/Slice0.lean ====
section
/-! SUPPORT. The model's own tests: the checks of `Instr.wellFormed`, the decoding of words written out from the encodings of spec/, single steps with results from spec/95_test_vectors.md (V<n> and P<n> name its rows), and for each obligation with hypotheses a concrete state and operands that meet them, clause by clause. -/

namespace Sys2Proof.Tests

open Sys2Proof.Machine

-- One theorem at a time: checked in parallel, the kernel evaluations below ask for a thread each.
set_option Elab.async false

/-- The state an instruction leads to. -/
def after (i : Instr) (s : State) : State :=
  match exec i s with
  | .next t => t
  | _ => s

theorem exec_after (i : Instr) (s : State) : exec i s = .next (after i s) := by
  obtain ⟨t, h⟩ := exec_next i s
  simp only [after, h]

/-- V14: the pending read request of section B4. -/
def pendingRead : State := after (.encRdh 0x01#8 0x0000#16 0x0001#16) State.reset

/-- V18: the pending write request of section B5. -/
def pendingWrite : State := after (.encWrb 0x11#8 0x00AC#16 0xFF00#16) State.reset

/-- A state with accepted read data, for section B6. -/
def holding (d : List Byte) : State := { State.reset with data := d, dlen := BitVec.ofNat 8 d.length }

/-- The result of a host operation, without the codec's state. -/
def resultOf {α : Type} (o : HostOutcome α) : Option (Result α) :=
  match o with
  | .next r => some r.1
  | _ => none

/-- The `CRC` and `STATUS` that an instruction leaves. -/
def crcAndStatus (i : Instr) (s : State) : Word × BitVec 4 := ((after i s).crc, (after i s).status)

/-- `STATUS`, `DLEN`, `CRC` and `TXVALID` after an instruction, the columns of sections B4 and B5. -/
def columns (i : Instr) (s : State) : BitVec 4 × Byte × Word × Bool :=
  ((after i s).status, (after i s).dlen, (after i s).crc, (after i s).txvalid)

/-- `RES` and `STATUS` after an instruction, the columns of section B6. -/
def resAndStatus (i : Instr) (s : State) : Word × BitVec 4 := ((after i s).res, (after i s).status)

/-! ### Well-formedness (30_encoding.md R74, R76, 41_encode.md R116) -/

theorem test_wellFormed_refuses_crcInit_with_argument : (Instr.crcInit [0x00#8]).wellFormed = false := by decide

theorem test_wellFormed_refuses_crcByte_without_byte : (Instr.crcByte []).wellFormed = false := by decide

theorem test_wellFormed_refuses_enc_of_five_bytes :
    (Instr.enc [0x01#8, 0x03#8, 0x00#8, 0x00#8, 0x00#8]).wellFormed = false := by decide

theorem test_wellFormed_refuses_getReg_of_two_bytes : (Instr.getReg [0x00#8, 0x00#8]).wellFormed = false := by decide

theorem test_wellFormed_refuses_getBit_of_one_byte : (Instr.getBit [0x00#8]).wellFormed = false := by decide

theorem test_wellFormed_refuses_raw_supported_function :
    (Instr.encRaw 0x01#8 0x03#8 0x00#8 0x00#8 0x00#8 0x01#8).wellFormed = false := by decide

theorem test_wellFormed_accepts_the_syntax_lines :
    asmCrcInit.wellFormed = true ∧ (asmCrcByte 0x01#8).wellFormed = true ∧ (asmGetReg 0xFF#8).wellFormed = true ∧
    (asmGetBit 0x07F7#16).wellFormed = true ∧ (Instr.encRaw 0x01#8 0x83#8 0#8 0#8 0#8 1#8).wellFormed = true := by
  decide

/-! ### Decoding: the frames of B3 as the number `W` of 00_scope.md R11, and the pairs of 30_encoding.md R74 -/

/-- V16: `01 01 00 13 00 25 0C 14`. -/
theorem test_decode_word_encRdc :
    decodeTableWord 64 0x0101001300250C14 = some (.encRdc 0x01#8 0x0013#16 0x0025#16) := by decide

/-- V17: `02 02 00 00 00 0A F8 3E`. -/
theorem test_decode_word_encRdi :
    decodeTableWord 64 0x02020000000AF83E = some (.encRdi 0x02#8 0x0000#16 0x000A#16) := by decide

/-- V22b: `03 03 00 10 00 02 C4 2C`. -/
theorem test_decode_word_encRdh :
    decodeTableWord 64 0x030300100002C42C = some (.encRdh 0x03#8 0x0010#16 0x0002#16) := by decide

/-- V18: `11 05 00 AC FF 00 4E 8B`. -/
theorem test_decode_word_encWrb :
    decodeTableWord 64 0x110500ACFF004E8B = some (.encWrb 0x11#8 0x00AC#16 0xFF00#16) := by decide

/-- V20: `01 06 00 01 00 03 98 0B`. -/
theorem test_decode_word_encWrr :
    decodeTableWord 64 0x010600010003980B = some (.encWrr 0x01#8 0x0001#16 0x0003#16) := by decide

/-- V23b: function byte 0x83, none of the five. -/
theorem test_decode_word_encRaw :
    decodeTableWord 64 0x0183000000010000 = some (.encRaw 0x01#8 0x83#8 0x00#8 0x00#8 0x00#8 0x01#8) := by decide

/-- The fixed-length rows of R74 with the shortest argument of zeros: codes 0x1, 0x2, 0x7, 0x8, and 0x5, whose six
zero bytes have function 0x00. -/
theorem test_decode_word_fixed_length_codes :
    decodeTableWord 8 0x01 = some (.crcInit []) ∧ decodeTableWord 8 0x02 = some (.crcByte [0x00#8]) ∧
    decodeTableWord 8 0x07 = some (.getReg [0x00#8]) ∧ decodeTableWord 8 0x08 = some (.getBit [0x00#8, 0x00#8]) ∧
    decodeTableWord 8 0x05 = some (.encRaw 0#8 0#8 0#8 0#8 0#8 0#8) := by decide

/-- The rows of R74 with an argument of any length: codes 0x3, 0x4, 0x6. -/
theorem test_decode_word_any_length_codes :
    decodeTableWord 8 0x03 = some (.crcBlock []) ∧ decodeTableWord 8 0x04 = some (.crcCheck []) ∧
    decodeTableWord 8 0x06 = some (.dec []) := by decide

/-- The reserved codes of R75. -/
theorem test_decode_word_reserved_codes :
    decodeTableWord 8 0x00 = some (.reserved0 []) ∧ decodeTableWord 8 0x09 = some (.reserved9 []) ∧
    decodeTableWord 8 0x0A = some (.reservedA []) ∧ decodeTableWord 8 0x0B = some (.reservedB []) ∧
    decodeTableWord 8 0x0C = some (.reservedC []) ∧ decodeTableWord 8 0x0D = some (.reservedD []) ∧
    decodeTableWord 8 0x0E = some (.reservedE []) ∧ decodeTableWord 8 0x0F = some (.reservedF []) := by decide

/-- A width the table does not have is refused. -/
theorem test_decode_word_refuses_other_widths : decodeTableWord 32 0x01 = none := by decide

/-- P1, P2, P4: the pairs `(0x2, [03])`, `(0x7, [01])`, `(0x8, [00 10])`, `(0x6, [01 03 02 08])`. -/
theorem test_decode_program_pairs :
    decode ⟨0x2#4, [0x03#8]⟩ = asmCrcByte 0x03#8 ∧ decode ⟨0x7#4, [0x01#8]⟩ = asmGetReg 0x01#8 ∧
    decode ⟨0x8#4, [0x00#8, 0x10#8]⟩ = asmGetBit 0x0010#16 ∧
    decode ⟨0x6#4, [0x01#8, 0x03#8, 0x02#8, 0x08#8]⟩ = .dec [0x01#8, 0x03#8, 0x02#8, 0x08#8] := by decide

/-- P3: `(0x5, [01 06 00 01 00 03])` is `ENC.WRR 0x01, 0x0001, 0x0003`, and V23c stays an `ENC`. -/
theorem test_decode_enc_pairs :
    decode ⟨0x5#4, [0x01#8, 0x06#8, 0x00#8, 0x01#8, 0x00#8, 0x03#8]⟩ = .encWrr 0x01#8 0x0001#16 0x0003#16 ∧
    decode ⟨0x5#4, [0x01#8, 0x03#8, 0x00#8, 0x00#8, 0x00#8]⟩ =
      .enc [0x01#8, 0x03#8, 0x00#8, 0x00#8, 0x00#8] := by decide

/-! ### The CRC family -/

/-- V3: the check value of "123456789". -/
theorem test_crc16_check_value :
    crc16 [0x31#8, 0x32#8, 0x33#8, 0x34#8, 0x35#8, 0x36#8, 0x37#8, 0x38#8, 0x39#8] = 0x4B37#16 := by
  decide +kernel

/-- V4: the iterations of `crc_step(0xFFFF, 0x01)`. -/
theorem test_crc_iterations :
    crcShifts 1 0xFFFE#16 = 0x7FFF#16 ∧ crcShifts 2 0xFFFE#16 = 0x9FFE#16 ∧ crcShifts 8 0xFFFE#16 = 0x807E#16 := by
  decide +kernel

/-- From `CRC = 1234`, as in V11. -/
theorem test_crcInit : crcAndStatus asmCrcInit { State.reset with crc := 0x1234#16 } = (0xFFFF#16, 0#4) := by
  decide +kernel

/-- V13f. -/
theorem test_crcInit_with_argument : crcAndStatus (.crcInit [0x00#8]) State.reset = (0xFFFF#16, 7#4) := by
  decide +kernel

/-- V12. -/
theorem test_crcByte_continues :
    crcAndStatus (asmCrcByte 0x03#8) { State.reset with crc := 0x807E#16 } = (0x2140#16, 0#4) := by decide +kernel

/-- V13f. -/
theorem test_crcByte_of_two_bytes : crcAndStatus (.crcByte [0x01#8, 0x02#8]) State.reset = (0xFFFF#16, 7#4) := by
  decide +kernel

/-- V11. -/
theorem test_crcBlock_ignores_the_old_value :
    crcAndStatus (.crcBlock [0x01#8]) { State.reset with crc := 0x1234#16 } = (0x807E#16, 0#4) := by decide +kernel

/-- V8. -/
theorem test_crcBlock :
    crcAndStatus (.crcBlock [0x01#8, 0x03#8, 0x00#8, 0x00#8, 0x00#8, 0x01#8]) State.reset = (0x0A84#16, 0#4) := by
  decide +kernel

/-- V13, V13b. -/
theorem test_crcCheck :
    crcAndStatus (.crcCheck [0x01#8, 0x03#8, 0x02#8, 0x08#8, 0x00#8, 0xBF#8, 0x84#8]) State.reset = (0x84BF#16, 0#4) ∧
    crcAndStatus (.crcCheck [0x01#8, 0x03#8, 0x02#8, 0x08#8, 0x00#8, 0xBF#8, 0x85#8]) State.reset =
      (0x84BF#16, 2#4) := by decide +kernel

/-- V13c, V13d, V13e: two bytes, and fewer. -/
theorem test_crcCheck_short :
    crcAndStatus (.crcCheck [0xFF#8, 0xFF#8]) State.reset = (0xFFFF#16, 0#4) ∧
    crcAndStatus (.crcCheck [0x00#8, 0x00#8]) State.reset = (0xFFFF#16, 2#4) ∧
    crcAndStatus (.crcCheck [0x00#8]) State.reset = (0xFFFF#16, 3#4) ∧
    crcAndStatus (.crcCheck []) State.reset = (0xFFFF#16, 3#4) := by decide +kernel

/-! ### The request encoder -/

/-- V16. -/
theorem test_encRdc :
    frameBytes (after (.encRdc 0x01#8 0x0013#16 0x0025#16) State.reset).txbuf =
      [0x01#8, 0x01#8, 0x00#8, 0x13#8, 0x00#8, 0x25#8, 0x0C#8, 0x14#8] := by decide +kernel

/-- V17. -/
theorem test_encRdi :
    frameBytes (after (.encRdi 0x02#8 0x0000#16 0x000A#16) State.reset).txbuf =
      [0x02#8, 0x02#8, 0x00#8, 0x00#8, 0x00#8, 0x0A#8, 0xF8#8, 0x3E#8] := by decide +kernel

/-- V14. -/
theorem test_encRdh :
    frameBytes pendingRead.txbuf = [0x01#8, 0x03#8, 0x00#8, 0x00#8, 0x00#8, 0x01#8, 0x84#8, 0x0A#8] ∧
    pendingRead.txvalid = true ∧ pendingRead.crc = 0x0A84#16 ∧ pendingRead.status = 0#4 := by decide +kernel

/-- V21. -/
theorem test_encRdh_does_not_check_ranges :
    frameBytes (after (.encRdh 0xF7#8 0xFFFF#16 0xFFFF#16) State.reset).txbuf =
      [0xF7#8, 0x03#8, 0xFF#8, 0xFF#8, 0xFF#8, 0xFF#8, 0x50#8, 0xC8#8] := by decide +kernel

/-- V18, V19. -/
theorem test_encWrb :
    frameBytes pendingWrite.txbuf = [0x11#8, 0x05#8, 0x00#8, 0xAC#8, 0xFF#8, 0x00#8, 0x4E#8, 0x8B#8] ∧
    frameBytes (after (.encWrb 0x11#8 0x00AC#16 0x0000#16) State.reset).txbuf =
      [0x11#8, 0x05#8, 0x00#8, 0xAC#8, 0x00#8, 0x00#8, 0x0F#8, 0x7B#8] := by decide +kernel

/-- V20, V21b. -/
theorem test_encWrr :
    frameBytes (after (.encWrr 0x01#8 0x0001#16 0x0003#16) State.reset).txbuf =
      [0x01#8, 0x06#8, 0x00#8, 0x01#8, 0x00#8, 0x03#8, 0x98#8, 0x0B#8] ∧
    frameBytes (after (.encWrr 0x00#8 0x0000#16 0x0000#16) State.reset).txbuf =
      [0x00#8, 0x06#8, 0x00#8, 0x00#8, 0x00#8, 0x00#8, 0x88#8, 0x1B#8] := by decide +kernel

/-- V23: nothing but `STATUS` changes. -/
theorem test_encRaw :
    after (.encRaw 0x01#8 0x04#8 0x00#8 0x00#8 0x00#8 0x01#8) State.reset = { State.reset with status := 5#4 } := by
  decide +kernel

/-- V15, from the argument bytes. -/
theorem test_enc :
    frameBytes (after (.enc [0x01#8, 0x03#8, 0x00#8, 0x00#8, 0x00#8, 0x02#8]) State.reset).txbuf =
      [0x01#8, 0x03#8, 0x00#8, 0x00#8, 0x00#8, 0x02#8, 0xC4#8, 0x0B#8] := by decide +kernel

/-- V23c. -/
theorem test_enc_of_five_bytes :
    after (.enc [0x01#8, 0x03#8, 0x00#8, 0x00#8, 0x00#8]) State.reset = { State.reset with status := 7#4 } := by
  decide +kernel

/-! ### The decoder, typed access and the reserved codes -/

/-- V24, V25, V26, V28 to V36 of the read path: `STATUS`, `DLEN`, `CRC`, `TXVALID`. -/
theorem test_dec_read_path :
    columns (.dec []) pendingRead = (1#4, 0#8, 0x0A84#16, false) ∧
    columns (.dec [0x01#8, 0x03#8, 0x02#8, 0x08#8, 0x00#8, 0xBF#8, 0x84#8]) pendingRead =
      (0#4, 2#8, 0x84BF#16, false) ∧
    columns (.dec [0x01#8, 0x03#8, 0x02#8, 0x09#8, 0x00#8, 0xBF#8, 0x84#8]) pendingRead =
      (2#4, 0#8, 0x14BE#16, false) ∧
    columns (.dec [0x01#8, 0x03#8, 0x02#8, 0x08#8]) pendingRead = (3#4, 0#8, 0x0A84#16, false) ∧
    columns (.dec [0x01#8, 0x03#8, 0x02#8, 0x08#8, 0x00#8]) pendingRead = (3#4, 0#8, 0x0A84#16, false) ∧
    columns (.dec [0x01#8, 0x03#8, 0x00#8, 0x20#8, 0xF0#8]) pendingRead = (0#4, 0#8, 0xF020#16, false) ∧
    columns (.dec [0x09#8, 0x04#8, 0x02#8, 0x08#8, 0x00#8, 0x5F#8, 0x31#8]) pendingRead =
      (0#4, 2#8, 0x315F#16, false) := by decide +kernel

/-- V40 to V45 of the write path, and V38 (no request). -/
theorem test_dec_write_path :
    columns (.dec [0x11#8, 0x05#8, 0x00#8, 0xAC#8, 0xFF#8, 0x00#8, 0x4E#8, 0x8B#8]) pendingWrite =
      (0#4, 0#8, 0x8B4E#16, false) ∧
    columns (.dec []) pendingWrite = (1#4, 0#8, 0x8B4E#16, false) ∧
    columns (.dec [0x11#8, 0x85#8, 0x02#8, 0xC2#8, 0x94#8]) pendingWrite = (3#4, 0#8, 0x8B4E#16, false) ∧
    columns (.dec [0x11#8, 0x05#8, 0x00#8, 0xAC#8, 0xFF#8, 0x00#8, 0x4E#8, 0x8A#8]) pendingWrite =
      (2#4, 0#8, 0x8B4E#16, false) ∧
    columns (.dec [0x11#8, 0x05#8, 0x00#8, 0xAC#8, 0x00#8, 0x00#8, 0x0F#8, 0x7B#8]) pendingWrite =
      (4#4, 0#8, 0x7B0F#16, false) ∧
    columns (.dec [0x11#8, 0x05#8, 0x00#8, 0xAD#8, 0xFF#8, 0x00#8, 0x4E#8, 0x8B#8]) pendingWrite =
      (2#4, 0#8, 0x4B1F#16, false) ∧
    columns (.dec [0x01#8]) State.reset = (6#4, 0#8, 0xFFFF#16, false) := by decide +kernel

/-- V48, V50. -/
theorem test_getReg :
    resAndStatus (asmGetReg 0#8) (holding [0x12#8, 0x34#8, 0xAB#8, 0xCD#8]) = (0x1234#16, 0#4) ∧
    resAndStatus (asmGetReg 1#8) (holding [0x12#8, 0x34#8, 0xAB#8, 0xCD#8]) = (0xABCD#16, 0#4) ∧
    resAndStatus (asmGetReg 2#8) (holding [0x12#8, 0x34#8, 0xAB#8, 0xCD#8]) = (0x0000#16, 8#4) ∧
    (after (asmGetReg 0#8) State.reset).status = 8#4 := by decide +kernel

/-- V48b, V50b. -/
theorem test_getReg_odd_length :
    resAndStatus (asmGetReg 0#8) (holding [0x01#8, 0x02#8, 0x03#8]) = (0x0102#16, 0#4) ∧
    (after (asmGetReg 1#8) (holding [0x01#8, 0x02#8, 0x03#8])).status = 8#4 ∧
    (after (.getReg []) (holding [0x01#8, 0x02#8, 0x03#8])).status = 7#4 := by decide +kernel

/-- V49. -/
theorem test_getBit :
    (List.range 10).map (fun i => (after (asmGetBit (BitVec.ofNat 16 i)) (holding [0xAD#8, 0x02#8])).res) =
      [1#16, 0#16, 1#16, 1#16, 0#16, 1#16, 0#16, 1#16, 0#16, 1#16] := by decide +kernel

/-- V49b, V50b. -/
theorem test_getBit_edges :
    resAndStatus (asmGetBit 15#16) (holding [0xAD#8, 0x02#8]) = (0#16, 0#4) ∧
    (after (asmGetBit 16#16) (holding [0xAD#8, 0x02#8])).status = 8#4 ∧
    (after (.getBit [0x00#8]) (holding [0xAD#8, 0x02#8])).status = 7#4 := by decide +kernel

/-- R75: every reserved code ends with 7 and changes nothing else. -/
theorem test_reserved_codes :
    [Instr.reserved0 [], .reserved9 [], .reservedA [0x01#8], .reservedB [], .reservedC [], .reservedD [],
      .reservedE [], .reservedF [0x01#8, 0x02#8]].all
        (fun i => decide (after i State.reset = { State.reset with status := 7#4 })) = true := by decide +kernel

/-! ### The step and the typed operations -/

/-- The step takes the presented command (V12), and stays as it is with none. -/
theorem test_step :
    (match step { State.reset with crc := 0x807E#16, port := [⟨0x2#4, [0x03#8]⟩] } with
      | .next t => decide (t = { State.reset with crc := 0x2140#16 })
      | _ => false) = true ∧
    (match step State.reset with
      | .next t => decide (t = State.reset)
      | _ => false) = true := by decide +kernel

/-- V51, V52. -/
theorem test_readRegister :
    resultOf (readRegister 0x01#8 0x0000#16
      (.received [0x01#8, 0x03#8, 0x02#8, 0x08#8, 0x00#8, 0xBF#8, 0x84#8]) State.reset) = some (.value 0x0800#16) ∧
    resultOf (readRegister 0x01#8 0x0000#16
      (.received [0x01#8, 0x03#8, 0x04#8, 0x12#8, 0x34#8, 0xAB#8, 0xCD#8, 0x00#8, 0x20#8]) State.reset) =
        some (.error 3#4) := by decide +kernel

/-- V53, V53b. -/
theorem test_readRegisters :
    resultOf (readRegisters 0x01#8 0x0000#16 0x0002#16
      (.received [0x01#8, 0x03#8, 0x04#8, 0x12#8, 0x34#8, 0xAB#8, 0xCD#8, 0x00#8, 0x20#8]) State.reset) =
        some (.value [0x1234#16, 0xABCD#16]) ∧
    resultOf (readRegisters 0x01#8 0x0000#16 0x0002#16
      (.received [0x01#8, 0x03#8, 0x02#8, 0x08#8, 0x00#8, 0xBF#8, 0x84#8]) State.reset) = some (.error 3#4) := by
  decide +kernel

/-- V54, V56. -/
theorem test_writes :
    resultOf (writeRegister 0x01#8 0x0001#16 0x0003#16
      (.received [0x01#8, 0x06#8, 0x00#8, 0x01#8, 0x00#8, 0x03#8, 0x98#8, 0x0B#8]) State.reset) =
        some (.value ()) ∧
    resultOf (writeRegister 0x01#8 0x0001#16 0x0003#16
      (.received [0x01#8, 0x06#8, 0x00#8, 0x01#8, 0x00#8, 0x04#8, 0xD9#8, 0xC9#8]) State.reset) =
        some (.error 4#4) ∧
    resultOf (writeBit 0x11#8 0x00AC#16 false
      (.received [0x11#8, 0x05#8, 0x00#8, 0xAC#8, 0x00#8, 0x00#8, 0x0F#8, 0x7B#8]) State.reset) =
        some (.value ()) := by decide +kernel

/-- V55, V55b, V55d. -/
theorem test_readBits :
    resultOf (readBits 0x02#8 0x0000#16 0x000A#16 0x02#8
      (.received [0x02#8, 0x02#8, 0x02#8, 0xAD#8, 0x02#8, 0x00#8, 0xE9#8]) State.reset) =
        some (.value [true, false, true, true, false, true, false, true, false, true]) ∧
    resultOf (readBits 0x02#8 0x0000#16 0x000A#16 0x02#8
      (.received [0x02#8, 0x02#8, 0x01#8, 0xAD#8, 0x60#8, 0x71#8]) State.reset) = some (.error 3#4) ∧
    resultOf (readBits 0x01#8 0x0000#16 0x0008#16 0x03#8 .transportError State.reset) = some (.error 5#4) := by
  decide +kernel

/-- V57. -/
theorem test_analogRead :
    resultOf (analogRead 0x05#8 0x0004#16
      (.received [0x05#8, 0x03#8, 0x02#8, 0x0F#8, 0xFF#8, 0x0C#8, 0x34#8]) State.reset) = some (.value 0x0FFF#16) := by
  decide +kernel

/-! ### Witnesses: for each obligation with hypotheses, a state and operands that meet them, clause by clause -/

/-- V25. -/
def goodRead : List Byte := [0x01#8, 0x03#8, 0x02#8, 0x08#8, 0x00#8, 0xBF#8, 0x84#8]

/-- V40. -/
def goodWrite : List Byte := [0x11#8, 0x05#8, 0x00#8, 0xAC#8, 0xFF#8, 0x00#8, 0x4E#8, 0x8B#8]

/-- The header of V14. -/
def readHeader : List Byte := [0x01#8, 0x03#8, 0x00#8, 0x00#8, 0x00#8, 0x01#8]

/-- The header of V18. -/
def writeHeader : List Byte := [0x11#8, 0x05#8, 0x00#8, 0xAC#8, 0xFF#8, 0x00#8]

theorem reset_inv : State.reset.Inv :=
  ⟨by decide, by decide, by decide, by decide, by decide, by decide⟩

theorem pendingRead_inv : pendingRead.Inv :=
  ⟨by decide +kernel, by decide +kernel, by decide +kernel, by decide +kernel, by decide +kernel, by decide +kernel⟩

theorem pendingWrite_inv : pendingWrite.Inv :=
  ⟨by decide +kernel, by decide +kernel, by decide +kernel, by decide +kernel, by decide +kernel, by decide +kernel⟩

theorem pendingRead_facts :
    pendingRead.txvalid = true ∧ isReadFc pendingRead.txbuf.function = true ∧
    pendingRead.txbuf.function ∈ [0x01#8, 0x02#8, 0x03#8] := by decide +kernel

theorem pendingWrite_facts :
    pendingWrite.txvalid = true ∧ isReadFc pendingWrite.txbuf.function = false ∧
    isWriteFc pendingWrite.txbuf.function = true ∧ pendingWrite.txbuf.function ∉ [0x01#8, 0x02#8, 0x03#8] ∧
    pendingWrite.txbuf.function ∈ [0x05#8, 0x06#8] := by decide +kernel

theorem witness_StepKeepsTheInvariant : ∃ s t : State, s.Inv ∧ step s = .next t :=
  ⟨{ pendingRead with port := [⟨0x6#4, goodRead⟩] }, after (.dec goodRead) { pendingRead with port := [] },
    ⟨pendingRead_inv.1, pendingRead_inv.2, pendingRead_inv.3, pendingRead_inv.4, pendingRead_inv.5,
      pendingRead_inv.6⟩, exec_after (.dec goodRead) _⟩

/-- `TXBUF` held and not held; `DATA[1]` and `DATA[2]` with `DLEN = 2`; `RES` held and not held. -/
theorem witness_EveryCommandIsTotal :
    (pendingRead.txbufHeld = true ∧ State.reset.txbufHeld = false) ∧
    (1 < (holding [0x08#8, 0x00#8]).dlen.toNat ∧ ¬2 < (holding [0x08#8, 0x00#8]).dlen.toNat) ∧
    (after (asmGetReg 0#8) (holding [0x08#8, 0x00#8])).resHeld = true ∧ State.reset.resHeld = false := by
  decide +kernel

theorem witness_StepRunsThePresentedCommand :
    ({ State.reset with port := [⟨0x1#4, []⟩] } : State).port = [⟨0x1#4, []⟩] ∧ State.reset.port = [] ∧
    tableCommand 64 0x0103000000010000 = some ⟨0x5#4, readHeader⟩ ∧ tableCommand 8 0x0F = some ⟨0xF#4, []⟩ := by
  decide

theorem witness_FunctionByteSelectsTheRequest :
    (BitVec.ofNat 64 0x0101001300250C14 &&& 0x00FF000000000000#64) = 0x0001000000000000#64 ∧
    (BitVec.ofNat 64 0x02020000000AF83E &&& 0x00FF000000000000#64) = 0x0002000000000000#64 ∧
    (BitVec.ofNat 64 0xFF03FFFFFFFFFFFF &&& 0x00FF000000000000#64) = 0x0003000000000000#64 ∧
    (BitVec.ofNat 64 0x110500ACFF004E8B &&& 0x00FF000000000000#64) = 0x0005000000000000#64 ∧
    (BitVec.ofNat 64 0x0006000000000000 &&& 0x00FF000000000000#64) = 0x0006000000000000#64 ∧
    (BitVec.ofNat 64 0x0104000000010000 &&& 0x00FF000000000000#64) ∉ [0x0001000000000000#64, 0x0002000000000000#64,
      0x0003000000000000#64, 0x0005000000000000#64, 0x0006000000000000#64] := by decide

theorem witness_DecodeOfEncodeIsTheInstruction :
    ((Instr.encRaw 0x01#8 0x04#8 0#8 0#8 0#8 1#8).wellFormed = true ∧
      ∀ arg, Instr.encRaw 0x01#8 0x04#8 0#8 0#8 0#8 1#8 ≠ .enc arg) ∧
    (Instr.encRdh 0xFF#8 0xFFFF#16 0x0000#16).wellFormed = true ∧
    readHeader.length = 6 ∧ (readHeader.take 5).length ≠ 6 ∧ (0x00#8 :: readHeader).length ≠ 6 :=
  ⟨⟨by decide, fun _ h => by cases h⟩, by decide, by decide, by decide, by decide⟩

theorem witness_ReservedOrMislengthedIsIllegal :
    0x0#4 ∈ [0x0#4, 0x9#4, 0xA#4, 0xB#4, 0xC#4, 0xD#4, 0xE#4, 0xF#4] ∧
    ((⟨0x1#4, [0x00#8]⟩ : Command).cmd = 0x1#4 ∧ [0x00#8].length ≠ 0) ∧
    ((⟨0x2#4, []⟩ : Command).cmd = 0x2#4 ∧ ([] : List Byte).length ≠ 1) ∧
    ((⟨0x5#4, readHeader.take 5⟩ : Command).cmd = 0x5#4 ∧ (readHeader.take 5).length ≠ 6) ∧
    ((⟨0x7#4, []⟩ : Command).cmd = 0x7#4 ∧ ([] : List Byte).length ≠ 1) ∧
    ((⟨0x8#4, [0x00#8]⟩ : Command).cmd = 0x8#4 ∧ [0x00#8].length ≠ 2) := by decide

theorem witness_CrcInitSetsTheInitialValue : ([0x00#8] : List Byte) ≠ [] := by decide

theorem witness_CrcByteAdvancesTheAccumulator :
    ([] : List Byte).length ≠ 1 ∧ [0x01#8, 0x02#8].length ≠ 1 := by decide

/-- At the boundary `L = 1`, `L = 2`: V13e, V13d, V13c. -/
theorem witness_CrcCheckRecomputesAndCompares :
    [0x00#8].length < 2 ∧
    (2 ≤ [0x00#8, 0x00#8].length ∧ crc16 ([0x00#8, 0x00#8].take 0) ≠ be16 0x00#8 0x00#8) ∧
    (2 ≤ [0xFF#8, 0xFF#8].length ∧ crc16 ([0xFF#8, 0xFF#8].take 0) = be16 0xFF#8 0xFF#8) := by decide +kernel

theorem witness_AcceptanceLaw : ∃ (i : Instr) (s t : State),
    commandRow i = .enc ∧ exec i s = .next t ∧ t.status = 0#4 :=
  ⟨.encRdh 0x01#8 0x0000#16 0x0001#16, State.reset, pendingRead, rfl, exec_after _ _, by decide +kernel⟩

theorem witness_SingleBitSensitivity :
    0 < (withCrc readHeader).length ∧ 7 < (withCrc readHeader).length ∧ 7 < 8 := by decide +kernel

theorem witness_EncBuildsTheRequestFrame :
    0x06#8 ∈ [0x01#8, 0x02#8, 0x03#8, 0x05#8, 0x06#8] ∧ 0x04#8 ∉ [0x01#8, 0x02#8, 0x03#8, 0x05#8, 0x06#8] := by
  decide

theorem witness_RawRequestIsRefusedOrEncoded :
    0x83#8 ∉ [0x01#8, 0x02#8, 0x03#8, 0x05#8, 0x06#8] ∧ 0x01#8 ∈ [0x01#8, 0x02#8, 0x03#8, 0x05#8, 0x06#8] := by
  decide

theorem witness_BuiltFramesAreSound : ∃ (h : List Byte) (s t : State),
    h.length = 6 ∧ exec (.enc h) s = .next t ∧ t.status = 0#4 ∧ 7 < 8 ∧
    ∃ s' t', exec (.enc h) s' = .next t' ∧ t'.status = 0#4 ∧
      (frameBytes t.txbuf).take 6 = (frameBytes t'.txbuf).take 6 :=
  ⟨readHeader, State.reset, after (.enc readHeader) State.reset, by decide, exec_after _ _, by decide +kernel,
    by decide, pendingWrite, after (.enc readHeader) pendingWrite, exec_after _ _, by decide +kernel,
    by decide +kernel⟩

theorem witness_DecNeedsAndConsumesTheRequest :
    State.reset.txvalid = false ∧
    (pendingRead.txvalid = true ∧ pendingRead.txbuf.function ∈ [0x01#8, 0x02#8, 0x03#8]) ∧
    (pendingWrite.txvalid = true ∧ pendingWrite.txbuf.function ∉ [0x01#8, 0x02#8, 0x03#8]) :=
  ⟨rfl, ⟨pendingRead_facts.1, pendingRead_facts.2.2⟩, ⟨pendingWrite_facts.1, pendingWrite_facts.2.2.2.1⟩⟩

/-- Lengths 0, 1, 4, 5 with `byte_count` 2, 5 with `byte_count` 0, 7: V24, V28, V29, V32, V26, V25. -/
theorem witness_ReadPathOutcomes :
    (pendingRead.txvalid = true ∧ pendingRead.txbuf.function ∈ [0x01#8, 0x02#8, 0x03#8]) ∧
    ([] : List Byte).length = 0 ∧ (1 ≤ (goodRead.take 1).length ∧ (goodRead.take 1).length ≤ 4) ∧
    (1 ≤ (goodRead.take 4).length ∧ (goodRead.take 4).length ≤ 4) ∧
    (5 ≤ (goodRead.take 5).length ∧ (goodRead.take 5).length ≠ 5 + ((goodRead.take 5).getD 2 0).toNat) ∧
    ([0x01#8, 0x03#8, 0x00#8, 0x20#8, 0xF1#8].length = 5 + (0x00#8).toNat ∧
      crc16 [0x01#8, 0x03#8, 0x00#8] ≠ be16 0xF1#8 0x20#8) ∧
    ([0x01#8, 0x03#8, 0x00#8, 0x20#8, 0xF0#8].length = 5 + (0x00#8).toNat ∧
      crc16 [0x01#8, 0x03#8, 0x00#8] = be16 0xF0#8 0x20#8) ∧
    (goodRead.length = 5 + (goodRead.getD 2 0).toNat ∧
      crc16 (goodRead.take (goodRead.length - 2)) =
        be16 (goodRead.getD (goodRead.length - 1) 0) (goodRead.getD (goodRead.length - 2) 0)) := by decide +kernel

/-- Lengths 0, 7, 9, 8: V41, V42, V42c, V43, V44, V40. -/
theorem witness_WritePathOutcomes :
    (pendingWrite.txvalid = true ∧ pendingWrite.txbuf.function ∈ [0x05#8, 0x06#8]) ∧
    ((goodWrite.take 7).length ≠ 0 ∧ (goodWrite.take 7).length ≠ 8) ∧
    ((goodWrite ++ [0x00#8]).length ≠ 0 ∧ (goodWrite ++ [0x00#8]).length ≠ 8) ∧
    (goodWrite.length = 8 ∧ crc16 (goodWrite.take 6) ≠ be16 0x8A#8 0x4E#8) ∧
    (crc16 [0x11#8, 0x05#8, 0x00#8, 0xAC#8, 0x00#8, 0x00#8] = be16 0x7B#8 0x0F#8 ∧
      [0x11#8, 0x05#8, 0x00#8, 0xAC#8, 0x00#8, 0x00#8] ≠ (frameBytes pendingWrite.txbuf).take 6) ∧
    (crc16 (goodWrite.take 6) = be16 (goodWrite.getD 7 0) (goodWrite.getD 6 0) ∧
      goodWrite.take 6 = (frameBytes pendingWrite.txbuf).take 6) := by decide +kernel

theorem witness_DecEffectsByOutcome : ∃ (rx : List Byte) (s t : State), exec (.dec rx) s = .next t :=
  ⟨goodRead, pendingRead, _, exec_after _ _⟩

/-- Accepted, refused, and 261 bytes. -/
theorem witness_AcceptedReadLengths :
    pendingRead.txvalid = true ∧ isReadFc pendingRead.txbuf.function = true ∧
    (∀ rx, exec (.dec rx) pendingRead = .next (after (.dec rx) pendingRead)) ∧
    (after (.dec goodRead) pendingRead).status = 0#4 ∧ (after (.dec [0x01#8]) pendingRead).status = 3#4 ∧
    260 < (List.replicate 261 0x00#8).length ∧ (5 ≤ 5 ∧ 5 ≤ 260) ∧ 5 ≤ 260 ∧ 260 ≤ 260 :=
  ⟨pendingRead_facts.1, pendingRead_facts.2.1, fun rx => exec_after _ _, by decide +kernel, by decide +kernel,
    by rw [List.length_replicate]; decide, by decide⟩

theorem witness_ReadPathChecksOnlyLengthAndCrc :
    pendingRead.txvalid = true ∧ isReadFc pendingRead.txbuf.function = true ∧ ([] : List Byte).length ≤ 255 ∧
    (List.replicate 255 0x00#8).length ≤ 255 :=
  ⟨pendingRead_facts.1, pendingRead_facts.2.1, by decide, by rw [List.length_replicate]⟩

theorem witness_AcceptedWriteResponseIsTheRequest :
    pendingWrite.Inv ∧ pendingWrite.txvalid = true ∧ isWriteFc pendingWrite.txbuf.function = true ∧
    ∃ t, exec (.dec goodWrite) pendingWrite = .next t ∧ t.status = 0#4 :=
  ⟨pendingWrite_inv, pendingWrite_facts.1, pendingWrite_facts.2.2.1, _, exec_after _ _, by decide +kernel⟩

/-- V42b, V33, V33b, with one register asked for. -/
theorem witness_ExceptionResponses :
    (pendingWrite.txvalid = true ∧ isReadFc pendingWrite.txbuf.function = false) ∧
    (pendingRead.txvalid = true ∧ isReadFc pendingRead.txbuf.function = true ∧ 0x01#8 ≠ 0x00#8) ∧
    crc16 [0x01#8, 0x83#8, 0x00#8] = be16 0x30#8 0x41#8 ∧ 0x0001#16 ≠ 0x0000#16 := by decide +kernel

theorem witness_ReadPathCornerCases :
    (pendingRead.txvalid = true ∧ isReadFc pendingRead.txbuf.function = true) ∧
    (List.replicate 255 0x00#8).length = 255 ∧
    (∃ t, exec (.dec goodRead) pendingRead = .next t) ∧
    exec (.encRdh 0x01#8 0x0000#16 0x0001#16) State.reset = .next pendingRead :=
  ⟨⟨pendingRead_facts.1, pendingRead_facts.2.1⟩, List.length_replicate, ⟨_, exec_after _ _⟩, exec_after _ _⟩

/-- One register and 127 registers. -/
theorem witness_ReadRegistersRoundTrip :
    (1 ≤ [0x0800#16].length ∧ [0x0800#16].length ≤ 127 ∧ [0x0800#16][0]? = some 0x0800#16) ∧
    1 ≤ (List.replicate 127 0x0000#16).length ∧ (List.replicate 127 0x0000#16).length ≤ 127 :=
  ⟨by decide, by simp, by simp⟩

/-- `DLEN = 2`, indexes 0 and 1, as in V47. -/
theorem witness_GetRegFetchesARegister :
    2 * (0#8).toNat + 1 < (holding [0x08#8, 0x00#8]).dlen.toNat ∧
    (holding [0x08#8, 0x00#8]).dlen.toNat ≤ 2 * (1#8).toNat + 1 ∧
    (∃ t, exec (.getReg [0#8]) (holding [0x08#8, 0x00#8]) = .next t ∧ t.status = 0#4) ∧
    ([] : List Byte).length ≠ 1 :=
  ⟨by decide, by decide, ⟨_, exec_after _ _, by decide +kernel⟩, by decide⟩

/-- `DLEN = 2`, indexes 15 and 16, as in V49b. -/
theorem witness_GetBitFetchesABit :
    (15#16).toNat / 8 < (holding [0xAD#8, 0x02#8]).dlen.toNat ∧
    (holding [0xAD#8, 0x02#8]).dlen.toNat ≤ (16#16).toNat / 8 ∧
    (∃ t, exec (.getBit [hi8 15#16, lo8 15#16]) (holding [0xAD#8, 0x02#8]) = .next t ∧ t.status = 0#4) ∧
    [0x00#8].length ≠ 2 :=
  ⟨by decide, by decide, ⟨_, exec_after _ _, by decide +kernel⟩, by decide⟩

theorem witness_ReadBitsResult : (0x02#8 = 0x01#8 ∨ 0x02#8 = 0x02#8) ∧ 0x03#8 ≠ 0x01#8 ∧ 0x03#8 ≠ 0x02#8 := by
  decide

theorem witness_CountCheckIsNotTruncated :
    128 ≤ (128#16).toNat ∧ 2041 ≤ (2041#16).toNat ∧
    ([0x08#8, 0x00#8].length ≤ 255 ∧ [0x08#8, 0x00#8].length ≠ 2 * (2#16).toNat) := by decide

/-- A command other than `DEC` while a request is pending, and an accepted `ENC`. -/
theorem witness_TransportFailureLeavesTheRequestPending :
    (pendingRead.txvalid = true ∧ commandRow (.crcInit []) ≠ .dec ∧ ∃ t, exec (.crcInit []) pendingRead = .next t) ∧
    ∃ t, exec (.enc readHeader) pendingWrite = .next t ∧ t.status = 0#4 :=
  ⟨⟨pendingRead_facts.1, by decide, _, exec_after _ _⟩, _, exec_after _ _, by decide +kernel⟩

/-- `DEC` in two states that differ in `CRC` alone. -/
theorem witness_CommandsKeepToTheMatrix :
    (exec (.dec goodRead) pendingRead = .next (after (.dec goodRead) pendingRead) ∧
      mayWriteRegister (commandRow (.dec goodRead)) .res = false) ∧
    pendingRead.Inv ∧ ({ pendingRead with crc := 0x1234#16 } : State).Inv ∧
    (∀ r, readsRegister (commandRow (.dec goodRead)) r = true →
      content r pendingRead = content r { pendingRead with crc := 0x1234#16 }) ∧
    ∃ t', exec (.dec goodRead) { pendingRead with crc := 0x1234#16 } = .next t' := by
  refine ⟨⟨exec_after _ _, rfl⟩, pendingRead_inv, ⟨pendingRead_inv.1, pendingRead_inv.2, pendingRead_inv.3,
    pendingRead_inv.4, pendingRead_inv.5, pendingRead_inv.6⟩, fun r h => ?_, ⟨_, exec_after _ _⟩⟩
  generalize pendingRead = s
  cases r <;> first | exact absurd (show false = true from h) (by decide) | rfl

theorem witness_StatusIsWrittenAndNeverRead : ∃ (i : Instr) (s t : State), exec i s = .next t :=
  ⟨.dec [], pendingRead, _, exec_after _ _⟩

/-- Each clause: no request, no bytes, a wrong length on both paths, a wrong CRC at the right length on both
paths (V26, V45), a wrong echo with a right CRC (V44), and the short or mislengthed arguments. -/
theorem witness_FirstErrorIsReported :
    (∀ rx s, exec (.dec rx) s = .next (after (.dec rx) s)) ∧ State.reset.txvalid = false ∧
    pendingRead.txvalid = true ∧
    (isReadFc pendingRead.txbuf.function = true ∧ goodRead.take 4 ≠ [] ∧ (goodRead.take 4).length < 5) ∧
    (pendingWrite.txvalid = true ∧ isReadFc pendingWrite.txbuf.function = false ∧ goodWrite.take 7 ≠ [] ∧
      (goodWrite.take 7).length ≠ 8) ∧
    (after (.dec [0x01#8, 0x03#8, 0x02#8, 0x09#8, 0x00#8, 0xBF#8, 0x84#8]) pendingRead).status = 2#4 ∧
    (after (.dec [0x11#8, 0x05#8, 0x00#8, 0xAC#8, 0x00#8, 0x00#8, 0x0F#8, 0x7B#8]) pendingWrite).status = 4#4 ∧
    ([0x01#8, 0x03#8, 0x02#8, 0x09#8, 0x00#8, 0xBF#8, 0x84#8].length = 5 + (0x02#8).toNat ∧
      crcOk [0x01#8, 0x03#8, 0x02#8, 0x09#8, 0x00#8, 0xBF#8, 0x84#8] = false) ∧
    ([0x11#8, 0x05#8, 0x00#8, 0xAD#8, 0xFF#8, 0x00#8, 0x4E#8, 0x8B#8].length = 8 ∧
      crcOk [0x11#8, 0x05#8, 0x00#8, 0xAD#8, 0xFF#8, 0x00#8, 0x4E#8, 0x8B#8] = false) ∧
    (crcOk [0x11#8, 0x05#8, 0x00#8, 0xAC#8, 0x00#8, 0x00#8, 0x0F#8, 0x7B#8] = true ∧
      [0x11#8, 0x05#8, 0x00#8, 0xAC#8, 0x00#8, 0x00#8] ≠ (frameBytes pendingWrite.txbuf).take 6) ∧
    [0x00#8].length < 2 ∧ (readHeader.take 5).length ≠ 6 ∧ ([] : List Byte).length ≠ 1 ∧ [0x00#8].length ≠ 2 :=
  ⟨fun _ _ => exec_after _ _, rfl, pendingRead_facts.1, by decide +kernel, by decide +kernel, by decide +kernel,
    by decide +kernel, by decide +kernel, by decide +kernel, by decide +kernel, by decide, by decide, by decide,
    by decide⟩

theorem witness_IdempotentCommands :
    (commandRow (.getReg [0#8]) ∈ [CommandRow.crcBlock, .crcCheck, .getReg, .getBit, .enc] ∧
      ∃ t, exec (.getReg [0#8]) (holding [0x08#8, 0x00#8]) = .next t) ∧
    ∃ t, exec (.dec goodRead) pendingRead = .next t :=
  ⟨⟨by decide, _, exec_after _ _⟩, _, exec_after _ _⟩

/-- Two states that differ in what stands in `RES` while it holds no value. -/
theorem witness_NoValueIsNeverRead :
    State.reset.Inv ∧ sameValues State.reset { State.reset with res := 0x1234#16 } ∧
    (∃ s', exec (.crcByte [0x01#8]) State.reset = .next s') ∧
    ∃ t', exec (.crcByte [0x01#8]) { State.reset with res := 0x1234#16 } = .next t' :=
  ⟨reset_inv, fun r => by cases r <;> rfl, ⟨_, exec_after _ _⟩, _, exec_after _ _⟩

theorem witness_FirstCommandAfterReset : isFc 0x03#8 = true ∧ isFc 0x06#8 = true := by decide

theorem witness_ExclusiveExchangeIsUndisturbed :
    (∀ i ∈ [Instr.crcInit []], commandRow i ≠ .enc ∧ commandRow i ≠ .dec) ∧
    (∃ t, runInstrs [.crcInit []] pendingRead = .next t ∧ ∃ v, exec (.dec goodRead) t = .next v) ∧
    ∃ u, exec (.dec goodRead) pendingRead = .next u ∧ 0 < u.dlen.toNat :=
  ⟨by decide, ⟨_, rfl, _, exec_after _ _⟩, _, exec_after _ _, by decide +kernel⟩

/-- A pending request replaced, two write requests, and P6. -/
theorem witness_InterleavedRequestIsReplaced :
    (∃ t, exec (.enc readHeader) pendingWrite = .next t ∧ t.status = 0#4 ∧ pendingWrite.txvalid = true) ∧
    (readHeader.length = 6 ∧ writeHeader.length = 6 ∧ isWriteFc (writeHeader.getD 1 0) = true ∧
      isReadFc (readHeader.getD 1 0) = true ∧ [0x08#8, 0x00#8].length ≤ 255) ∧
    (∃ t u v, exec (.enc writeHeader) State.reset = .next t ∧
      exec (.enc [0x01#8, 0x06#8, 0x00#8, 0x01#8, 0x00#8, 0x03#8]) t = .next u ∧
      exec (.dec (frameBytes t.txbuf)) u = .next v) ∧
    ∃ t, exec (.enc readHeader) State.reset = .next t :=
  ⟨⟨_, exec_after _ _, by decide +kernel, pendingWrite_facts.1⟩, by decide,
    ⟨_, _, _, exec_after _ _, exec_after _ _, exec_after _ _⟩, _, exec_after _ _⟩

/-- The first and the last command of a run of two. -/
theorem witness_RunsAreCommandSequences :
    0 < [(⟨0x1#4, []⟩ : Command), ⟨0x0#4, []⟩].length ∧ 1 < [(⟨0x1#4, []⟩ : Command), ⟨0x0#4, []⟩].length := by decide

/-- The first two commands of P1 and a `CRC.BYTE` of no byte (R75): `CRC`, and one `STATUS` a command. -/
theorem test_runCommands :
    (match runCommands [⟨0x1#4, []⟩, ⟨0x2#4, [0x01#8]⟩, ⟨0x2#4, []⟩] State.reset with
      | .next (t, codes) => decide (t.crc = 0x807E#16 ∧ codes = [0#4, 0#4, 7#4])
      | _ => false) = true := by decide +kernel

end Sys2Proof.Tests
end

section
/-! PROOF. Totality and runs (00_scope.md R18, R19): the outcome every command ends with, the host reads that give a value, what a command keeps of the commands that follow, and a run cut into its commands. -/

namespace Sys2Proof.Machine

/-! ### Every command ends with the code of an outcome (00_scope.md R18) -/

theorem readPath_status_code (rx : List Byte) (s : State) : ∃ k, (readPath rx s).status = statusCode k := by
  obtain ⟨-, h⟩ | ⟨-, -, h⟩ | ⟨-, -, h⟩ | ⟨-, -, h⟩ := readPath_cases rx s <;> rw [h]
  · exact ⟨.timeoutError, rfl⟩
  · exact ⟨.shortFrameError, rfl⟩
  · exact ⟨.crcError, rfl⟩
  · exact ⟨.ok, rfl⟩

theorem writePath_status_code (rx : List Byte) (s : State) : ∃ k, (writePath rx s).status = statusCode k := by
  obtain ⟨-, h⟩ | ⟨-, -, h⟩ | ⟨-, -, h⟩ | ⟨-, -, -, h⟩ | ⟨-, -, -, h⟩ := writePath_cases rx s <;> rw [h]
  · exact ⟨.timeoutError, rfl⟩
  · exact ⟨.shortFrameError, rfl⟩
  · exact ⟨.crcError, rfl⟩
  · exact ⟨.echoMismatchError, rfl⟩
  · exact ⟨.ok, rfl⟩

theorem decodeResponse_status_code (rx : List Byte) (s : State) :
    ∃ k, (decodeResponse rx s).status = statusCode k := by
  obtain ⟨-, h⟩ | ⟨-, -, h⟩ | ⟨-, -, h⟩ := decodeResponse_cases rx s <;> rw [h]
  · exact ⟨.noRequest, rfl⟩
  · exact readPath_status_code rx _
  · exact writePath_status_code rx _

theorem fetchRegister_status_code (i : Nat) (s : State) : ∃ k, (fetchRegister i s).status = statusCode k := by
  obtain ⟨-, h⟩ | ⟨-, h⟩ := fetchRegister_cases i s <;> rw [h]
  · exact ⟨.ok, rfl⟩
  · exact ⟨.indexRange, rfl⟩

theorem fetchBit_status_code (i : Nat) (s : State) : ∃ k, (fetchBit i s).status = statusCode k := by
  obtain ⟨-, h⟩ | ⟨-, h⟩ := fetchBit_cases i s <;> rw [h]
  · exact ⟨.ok, rfl⟩
  · exact ⟨.indexRange, rfl⟩

theorem Effect.status_code {i : Instr} {s t : State} (h : Effect i s t) : ∃ k, t.status = statusCode k := by
  cases h with
  | illegal => exact ⟨.illegalCommand, rfl⟩
  | crcInit => exact ⟨.ok, rfl⟩
  | crcByte => exact ⟨.ok, rfl⟩
  | crcBlock => exact ⟨.ok, rfl⟩
  | crcCheckShort => exact ⟨.shortFrameError, rfl⟩
  | crcCheck c k row code =>
    obtain rfl | rfl := code
    · exact ⟨.ok, rfl⟩
    · exact ⟨.crcError, rfl⟩
  | built => exact ⟨.ok, rfl⟩
  | unsupported => exact ⟨.unsupportedFunction, rfl⟩
  | dec rx => exact decodeResponse_status_code rx s
  | getReg k => exact fetchRegister_status_code k.toNat s
  | getBit hi lo => exact fetchBit_status_code (be16 hi lo).toNat s

/-- An instruction answers a next state, and `STATUS` there is one of the nine codes (60_exceptions.md R182, R184). -/
theorem exec_next_status_code (i : Instr) (s : State) : ∃ t k, exec i s = .next t ∧ t.status = statusCode k := by
  obtain ⟨t, ht⟩ := exec_next i s
  obtain ⟨k, hk⟩ := (exec_effect ht).status_code
  exact ⟨t, k, ht, hk⟩

/-! ### Host reads give a value exactly where one is held (10_state.md R34, R36) -/

theorem hostRead_txbuf_of_held {s : State} (h : s.txbufHeld = true) (k : Fin 8) :
    hostRead (.txbuf k) s = .ok ((byteAt (frameBytes s.txbuf) k.val).setWidth 16) := by
  rw [hostRead_txbuf, if_pos h]

theorem hostRead_data_of_lt {s : State} {k : Fin 255} (h : k.val < s.dlen.toNat) :
    hostRead (.data k) s = .ok ((dataByte s k.val).setWidth 16) := by
  rw [hostRead_data, if_pos h]

theorem hostRead_res_of_held {s : State} (h : s.resHeld = true) : hostRead .res s = .ok s.res := by
  rw [hostRead_res, if_pos h]

/-- A read that faults unless `p` holds gives some value exactly when `p` holds. -/
theorem exists_ok_ite_iff {p : Prop} [Decidable p] {v : Word} {e : Fault} :
    (∃ w, (if p then (.ok v : Except Fault Word) else .error e) = .ok w) ↔ p := by
  by_cases h : p <;> simp [h]

theorem exists_hostRead_txbuf_iff (s : State) (k : Fin 8) :
    (∃ w, hostRead (.txbuf k) s = .ok w) ↔ s.txbufHeld = true := by
  simp only [hostRead_txbuf, exists_ok_ite_iff]

theorem exists_hostRead_data_iff (s : State) (k : Fin 255) :
    (∃ w, hostRead (.data k) s = .ok w) ↔ k.val < s.dlen.toNat := by
  simp only [hostRead_data, exists_ok_ite_iff]

theorem exists_hostRead_res_iff (s : State) : (∃ w, hostRead .res s = .ok w) ↔ s.resHeld = true := by
  simp only [hostRead_res, exists_ok_ite_iff]

/-- Settles O4: a command is an instruction, every instruction has one of the effects of `Effect`, and a host read
is decided by the mark of its register. -/
theorem everyCommandIsTotal : Obligations.EveryCommandIsTotal := by
  refine ⟨fun c => exec_next_status_code (decode c), exec_next_status_code, fun s => ⟨?_, ?_, ?_, ?_, ?_⟩⟩
  · exact ⟨hostRead_crc s, hostRead_txvalid s, hostRead_dlen s, hostRead_status s⟩
  · exact fun k => ⟨fun h => hostRead_txbuf_of_held h k, exists_hostRead_txbuf_iff s k⟩
  · exact fun k => ⟨hostRead_data_of_lt, exists_hostRead_data_iff s k⟩
  · exact hostRead_res_of_held
  · exact exists_hostRead_res_iff s

/-! ### No command looks at the commands that follow it (10_state.md R22) -/

/-- `s` with other commands presented. -/
def withPort (p : List Command) (s : State) : State := { s with port := p }

theorem readPath_withPort (rx : List Byte) (p : List Command) (s : State) :
    readPath rx (withPort p s) = withPort p (readPath rx s) := by
  simp only [readPath, apply_ite (withPort p)]
  rfl

theorem writePath_withPort (rx : List Byte) (p : List Command) (s : State) :
    writePath rx (withPort p s) = withPort p (writePath rx s) := by
  simp only [writePath, apply_ite (withPort p)]
  rfl

theorem decodeResponse_withPort (rx : List Byte) (p : List Command) (s : State) :
    decodeResponse rx (withPort p s) = withPort p (decodeResponse rx s) := by
  obtain ⟨hv, h⟩ | ⟨hv, hf, h⟩ | ⟨hv, hf, h⟩ := decodeResponse_cases rx s <;> rw [h]
  · exact decodeResponse_of_no_request hv
  · exact (decodeResponse_of_read (s := withPort p s) hv hf).trans (readPath_withPort rx p (writeTxvalid false s))
  · exact (decodeResponse_of_write (s := withPort p s) hv hf).trans (writePath_withPort rx p (writeTxvalid false s))

theorem fetchRegister_withPort (i : Nat) (p : List Command) (s : State) :
    fetchRegister i (withPort p s) = withPort p (fetchRegister i s) := by
  simp only [fetchRegister, apply_ite (withPort p)]
  rfl

theorem fetchBit_withPort (i : Nat) (p : List Command) (s : State) :
    fetchBit i (withPort p s) = withPort p (fetchBit i s) := by
  simp only [fetchBit, apply_ite (withPort p)]
  rfl

/-- With other commands presented an instruction does the same and leaves those commands presented. -/
theorem exec_withPort {i : Instr} {s t : State} (h : exec i s = .next t) (p : List Command) :
    exec i (withPort p s) = .next (withPort p t) := by
  cases exec_effect h with
  | illegal _ all => exact all _
  | crcInit _ all => exact all _
  | crcByte _ _ all => exact all _
  | crcBlock _ _ all => exact all _
  | crcCheckShort _ all => exact all _
  | crcCheck _ _ _ _ all => exact all _
  | built _ _ _ _ _ _ _ _ all => exact all _
  | unsupported _ all => exact all _
  | dec rx eq => subst eq; exact congrArg Host.Outcome.next (decodeResponse_withPort rx p s)
  | getReg k eq => subst eq; exact congrArg Host.Outcome.next (fetchRegister_withPort k.toNat p s)
  | getBit hi lo eq => subst eq; exact congrArg Host.Outcome.next (fetchBit_withPort (be16 hi lo).toNat p s)

/-- A step takes the first presented command and executes it with the others left. -/
theorem step_withPort_cons (c : Command) (p : List Command) (s : State) :
    step (withPort (c :: p) s) = exec (decode c) (withPort p s) := rfl

/-! ### A run is its commands in order (00_scope.md R19, 20_memory.md R50) -/

theorem andThen_next_right {α : Type} (o : Host.Outcome α Fault Refusal) : andThen o .next = o := by
  cases o <;> rfl

theorem andThen_eq_next_iff {α β : Type} {o : Host.Outcome α Fault Refusal}
    {f : α → Host.Outcome β Fault Refusal} {b : β} :
    andThen o f = .next b ↔ ∃ a, o = .next a ∧ f a = .next b := by
  cases o <;> simp [andThen]

theorem runCommands_append (cs ds : List Command) (s : State) : runCommands (cs ++ ds) s =
    andThen (runCommands cs s) fun r => andThen (runCommands ds r.1) fun q => .next (q.1, r.2 ++ q.2) := by
  induction cs generalizing s with
  | nil => exact (andThen_next_right _).symm
  | cons c cs ih => simp only [List.cons_append, runCommands_cons, ih, andThen_assoc, andThen_next]

/-- A run of `c :: cs` that ends is `c` executed, its `STATUS` taken down, and then a run of `cs`. -/
theorem runCommands_cons_eq_next_iff {c : Command} {cs : List Command} {s t : State} {codes : List (BitVec 4)} :
    runCommands (c :: cs) s = .next (t, codes) ↔ ∃ s1 rest,
      exec (decode c) s = .next s1 ∧ runCommands cs s1 = .next (t, rest) ∧ codes = s1.status :: rest := by
  simp only [runCommands_cons, andThen_eq_next_iff, Host.Outcome.next.injEq, Prod.exists, Prod.mk.injEq]
  constructor
  · rintro ⟨s1, h1, t, rest, h2, rfl, rfl⟩
    exact ⟨s1, rest, h1, h2, rfl⟩
  · rintro ⟨s1, rest, h1, h2, rfl⟩
    exact ⟨s1, h1, t, rest, h2, rfl, rfl⟩

theorem runCommands_next (cs : List Command) (s : State) :
    ∃ t codes, runCommands cs s = .next (t, codes) ∧ codes.length = cs.length := by
  induction cs generalizing s with
  | nil => exact ⟨s, [], rfl, rfl⟩
  | cons c cs ih =>
    obtain ⟨s1, h1⟩ := exec_next (decode c) s
    obtain ⟨t, codes, h2, hlen⟩ := ih s1
    exact ⟨t, s1.status :: codes, runCommands_cons_eq_next_iff.mpr ⟨s1, codes, h1, h2, rfl⟩,
      congrArg (· + 1) hlen⟩

/-- The first `k + 1` commands of a run give its first `k + 1` codes, the last of them the `STATUS` they end with. -/
theorem runCommands_take {cs : List Command} {s t : State} {codes : List (BitVec 4)}
    (h : runCommands cs s = .next (t, codes)) {k : Nat} (hk : k < cs.length) :
    ∃ u, runCommands (cs.take (k + 1)) s = .next (u, codes.take (k + 1)) ∧ codes[k]? = some u.status := by
  induction cs generalizing s codes k with
  | nil => exact absurd hk (Nat.not_lt_zero k)
  | cons c cs ih =>
    obtain ⟨s1, rest, h1, h2, rfl⟩ := runCommands_cons_eq_next_iff.mp h
    cases k with
    | zero => exact ⟨s1, runCommands_cons_eq_next_iff.mpr ⟨s1, [], h1, rfl, rfl⟩, rfl⟩
    | succ k =>
      obtain ⟨u, hu, hcode⟩ := ih h2 (Nat.lt_of_succ_lt_succ hk)
      exact ⟨u, runCommands_cons_eq_next_iff.mpr ⟨s1, _, h1, hu, rfl⟩, hcode⟩

/-- The first of the core's steps executes the first presented command. -/
theorem core_run_succ_of_exec {c : Command} {s t : State} (h : exec (decode c) s = .next t) (k : Nat)
    (p : List Command) : core.run (k + 1) (withPort (c :: p) s) = core.run k (withPort p t) := by
  rw [run_succ, step_withPort_cons, exec_withPort h]
  rfl

/-- The steps of the core over the commands presented in `port` make the same run. -/
theorem core_run_of_runCommands {cs : List Command} {s t : State} {codes : List (BitVec 4)}
    (h : runCommands cs s = .next (t, codes)) (rest : List Command) :
    core.run cs.length (withPort (cs ++ rest) s) = .next (withPort rest t) := by
  induction cs generalizing s codes with
  | nil =>
    obtain ⟨rfl, -⟩ : s = t ∧ [] = codes := by simpa using h
    rfl
  | cons c cs ih =>
    obtain ⟨s1, _, h1, h2, -⟩ := runCommands_cons_eq_next_iff.mp h
    exact (core_run_succ_of_exec h1 cs.length (cs ++ rest)).trans (ih h2)

/-- Settles O58, by induction on the command list; the core's run follows it because no command looks at `port`. -/
theorem runsAreCommandSequences : Obligations.RunsAreCommandSequences := by
  refine ⟨runCommands_append, fun cs s => ?_⟩
  obtain ⟨t, codes, h, hlen⟩ := runCommands_next cs s
  exact ⟨t, codes, h, hlen, fun _ => runCommands_take h, core_run_of_runCommands h⟩

end Sys2Proof.Machine
end

section
/-! PROOF. The state of the codec (10_state.md): every instruction is one update of the registers, chosen by the registers its row of R33 marks `r` and writing only those marked `w`; from this the invariant, the matrix, the registers without a value and the one way of `STATUS` follow. -/

namespace Sys2Proof.Machine

/-! ### Updates: what a command writes, apart from the state it is written to -/

/-- What one command writes: `none` leaves a register as it is. -/
structure Update where
  /-- `CRC`. -/
  crc : Option Word := none
  /-- `TXBUF`, which then holds a value. -/
  txbuf : Option Frame := none
  /-- `TXVALID`. -/
  txvalid : Option Bool := none
  /-- The bytes put at the start of `DATA`; their number goes to `DLEN`. -/
  response : Option (List Byte) := none
  /-- `RES`, which then holds a value. -/
  res : Option Word := none
  /-- The outcome, whose code goes to `STATUS`. -/
  outcome : Status

/-- The state after the update. -/
def Update.apply (u : Update) (s : State) : State where
  crc := u.crc.getD s.crc
  txbuf := u.txbuf.getD s.txbuf
  txbufHeld := u.txbuf.isSome || s.txbufHeld
  txvalid := u.txvalid.getD s.txvalid
  data := match u.response with
    | none => s.data
    | some d => d ++ s.data.drop d.length
  dlen := match u.response with
    | none => s.dlen
    | some d => BitVec.ofNat 8 d.length
  status := statusCode u.outcome
  res := u.res.getD s.res
  resHeld := u.res.isSome || s.resHeld
  port := s.port

/-- Whether the update writes a register, or a byte of a buffer register. -/
def Update.writes (u : Update) : HostReg → Bool
  | .crc => u.crc.isSome
  | .txbuf _ => u.txbuf.isSome
  | .txvalid => u.txvalid.isSome
  | .data k => decide (k.val < (u.response.getD []).length)
  | .dlen => u.response.isSome
  | .status => true
  | .res => u.res.isSome

section
variable {u : Update} {s t : State}

@[simp] theorem Update.apply_txbufHeld : (u.apply s).txbufHeld = (u.txbuf.isSome || s.txbufHeld) := rfl
@[simp] theorem Update.apply_resHeld : (u.apply s).resHeld = (u.res.isSome || s.resHeld) := rfl
@[simp] theorem Update.apply_status : (u.apply s).status = statusCode u.outcome := rfl

theorem Update.apply_data_none (h : u.response = none) : (u.apply s).data = s.data := by simp [apply, h]

theorem Update.apply_dlen_none (h : u.response = none) : (u.apply s).dlen = s.dlen := by simp [apply, h]

theorem Update.apply_data_some {d : List Byte} (h : u.response = some d) :
    (u.apply s).data = d ++ s.data.drop d.length := by simp [apply, h]

theorem Update.apply_dlen_some {d : List Byte} (h : u.response = some d) :
    (u.apply s).dlen = BitVec.ofNat 8 d.length := by simp [apply, h]

/-- An update leaves the content of every register that it does not write. -/
theorem Update.content_apply_of_not_writes {r : HostReg} (h : u.writes r = false) :
    content r (u.apply s) = content r s := by
  cases r with
  | crc => simp_all [writes, content, apply]
  | txbuf k => simp_all [writes, content, apply]
  | txvalid => simp_all [writes, content, apply]
  | data k =>
    cases hd : u.response with
    | none => simp [content, apply_data_none hd]
    | some d =>
      have hk : d.length ≤ k.val := by simpa [writes, hd] using h
      exact congrArg (Option.map _) ((congrArg (·[k.val]?) (apply_data_some hd)).trans (writeData_other d s hk))
  | dlen => simp_all [writes, content, apply_dlen_none]
  | status => simp [writes] at h
  | res => simp_all [writes, content, apply]

/-- What an update writes does not depend on the state. -/
theorem Update.content_apply_of_writes {r : HostReg} (h : u.writes r = true) :
    content r (u.apply s) = content r (u.apply t) := by
  cases r with
  | crc =>
    obtain ⟨c, hc⟩ := Option.isSome_iff_exists.mp h
    simp [content, apply, hc]
  | txbuf k =>
    obtain ⟨f, hf⟩ := Option.isSome_iff_exists.mp h
    simp [content, apply, hf]
  | txvalid =>
    obtain ⟨b, hb⟩ := Option.isSome_iff_exists.mp h
    simp [content, apply, hb]
  | data k =>
    cases hd : u.response with
    | none => simp [writes, hd] at h
    | some d =>
      have hk : k.val < d.length := by simpa [writes, hd] using h
      simp [content, apply_data_some hd, List.getElem?_append_left hk]
  | dlen =>
    obtain ⟨d, hd⟩ := Option.isSome_iff_exists.mp h
    simp [content, apply_dlen_some hd]
  | status => rfl
  | res =>
    obtain ⟨v, hv⟩ := Option.isSome_iff_exists.mp h
    simp [content, apply, hv]

end

/-! ### The updates that an instruction of a row can make -/

/-- The updates of a row of the matrix (10_state.md R33). -/
structure Update.Fits (u : Update) (row : CommandRow) : Prop where
  crc : u.crc.isSome = true → mayWriteRegister row .crc = true
  /-- `TXBUF` is written by a successful `ENC` and by nothing else (R24). -/
  txbuf : u.txbuf.isSome = true ↔ row = .enc ∧ u.outcome = .ok
  txvalid : u.txvalid.isSome = true → row ∈ [.enc, .dec]
  /-- A request becomes pending only when it is built (R25). -/
  pending : u.txvalid = some true → u.txbuf.isSome = true
  /-- A request is built with a supported function and its CRC (41_encode.md R110, R117). -/
  frame : ∀ f, u.txbuf = some f → isFc f.function = true ∧ crcOk (frameBytes f) = true
  /-- `DATA` and `DLEN` are written by `DEC`, with at most 255 bytes (R20, R26). -/
  response : ∀ d, u.response = some d → row = .dec ∧ d.length ≤ 255
  /-- `RES` is written by a successful `GET` and by nothing else (R29). -/
  res : u.res.isSome = true ↔ row ∈ [.getReg, .getBit] ∧ u.outcome = .ok

/-- An update of a row writes only what the row marks `w`. -/
theorem Update.Fits.mayWrite {u : Update} {row : CommandRow} (h : u.Fits row) {r : HostReg}
    (hr : u.writes r = true) : mayWriteRegister row r = true := by
  have ofResponse (hd : u.response.isSome = true) : row = .dec := by
    obtain ⟨d, hd⟩ := Option.isSome_iff_exists.mp hd
    exact (h.response d hd).1
  cases r with
  | crc => exact h.crc hr
  | txbuf k =>
    obtain ⟨rfl, -⟩ := h.txbuf.mp hr
    rfl
  | txvalid =>
    obtain rfl | rfl : row = .enc ∨ row = .dec := by simpa using h.txvalid hr
    · rfl
    · rfl
  | data k =>
    cases hd : u.response with
    | none => simp [writes, hd] at hr
    | some d =>
      obtain rfl := ofResponse (by simp [hd])
      rfl
  | dlen =>
    obtain rfl := ofResponse hr
    rfl
  | status => rfl
  | res =>
    obtain rfl | rfl : row = .getReg ∨ row = .getBit := by simpa using (h.res.mp hr).1
    · rfl
    · rfl

/-- A refusal writes `STATUS` alone (60_exceptions.md R190). -/
theorem Update.fits_refused (row : CommandRow) {k : Status} (hk : k ≠ .ok) :
    Update.Fits { outcome := k } row := by
  constructor <;> simp [hk]

/-- The CRC family writes `CRC` and `STATUS` (40_crc.md R93 to R96). -/
theorem Update.fits_crc {row : CommandRow} (c : Word) (k : Status)
    (h : row ∈ [.crcInit, .crcByte, .crcBlock, .crcCheck]) :
    Update.Fits { crc := some c, outcome := k } row := by
  simp only [List.mem_cons, List.not_mem_nil, or_false] at h
  obtain rfl | rfl | rfl | rfl := h <;>
    exact ⟨fun _ => rfl, by simp, nofun, nofun, nofun, nofun, by simp⟩

/-- A built request (41_encode.md R110). -/
theorem Update.fits_built (a b c d e f : Byte) (h : isFc b = true) :
    Update.Fits { crc := some (crc16 [a, b, c, d, e, f]), txbuf := some (requestFrame a b c d e f),
                  txvalid := some true, outcome := .ok } .enc where
  crc _ := rfl
  txbuf := by simp
  txvalid := by simp
  pending _ := rfl
  frame g hg := by
    obtain rfl : requestFrame a b c d e f = g := by simpa using hg
    refine ⟨h, ?_⟩
    rw [frameBytes_requestFrame, withCrc, crcOk_append_pair, be16_hi8_lo8, beq_self_eq_true]
  response := nofun
  res := by simp

/-- `DEC` ends the pending request and delivers at most 255 bytes (42_decode.md R130 to R133). -/
theorem Update.fits_dec (c : Option Word) (d : List Byte) (k : Status) (hd : d.length ≤ 255) :
    Update.Fits { crc := c, txvalid := some false, response := some d, outcome := k } .dec where
  crc _ := rfl
  txbuf := by simp
  txvalid := by simp
  pending := nofun
  frame := nofun
  response e he := by simp_all
  res := by simp

/-- A `GET` that succeeds (43_typed_access.md R150, R151). -/
theorem Update.fits_fetched {row : CommandRow} (v : Word) (h : row ∈ [.getReg, .getBit]) :
    Update.Fits { res := some v, outcome := .ok } row where
  crc := nofun
  txbuf := by
    obtain rfl | rfl : row = .getReg ∨ row = .getBit := by simpa using h
    · simp
    · simp
  txvalid := nofun
  pending := nofun
  frame := nofun
  response := nofun
  res := by simpa using h

/-! ### Every instruction is one update, chosen by the registers it reads -/

/-- Two states hold the same in the registers a row reads: what stands in `TXBUF` without a pending request and in
`DATA` from `DLEN` on is not looked at. -/
structure ReadsAlike (row : CommandRow) (s t : State) : Prop where
  crc : row = .crcByte → s.crc = t.crc
  txvalid : row = .dec → s.txvalid = t.txvalid
  txbuf : row = .dec → s.txvalid = true → s.txbuf = t.txbuf
  dlen : row ∈ [.getReg, .getBit] → s.dlen = t.dlen
  data : row ∈ [.getReg, .getBit] → ∀ k < s.dlen.toNat, dataByte s k = dataByte t k

theorem ReadsAlike.refl (row : CommandRow) (s : State) : ReadsAlike row s s :=
  ⟨fun _ => rfl, fun _ => rfl, fun _ _ => rfl, fun _ => rfl, fun _ _ _ => rfl⟩

/-- The read path is one update of the state (42_decode.md R131). -/
theorem readPath_update (rx : List Byte) :
    ∃ u : Update, u.Fits .dec ∧ ∀ t, readPath rx (writeTxvalid false t) = u.apply t := by
  simp only [readPath]
  split_ifs with empty short length crc
  · exact ⟨_, Update.fits_dec none [] .timeoutError (by simp), fun _ => rfl⟩
  · exact ⟨_, Update.fits_dec none [] .shortFrameError (by simp), fun _ => rfl⟩
  · exact ⟨_, Update.fits_dec none [] .shortFrameError (by simp), fun _ => rfl⟩
  · have size : (payload rx).length = (byteCount rx).toNat := payload_length (not_not.mp length)
    have count : byteCount rx = BitVec.ofNat 8 (payload rx).length := by simp [size]
    refine ⟨_, Update.fits_dec (some (crc16 (crcCovered rx))) (payload rx) .ok (by omega), fun t => ?_⟩
    rw [count]
    rfl
  · exact ⟨_, Update.fits_dec (some (crc16 (crcCovered rx))) [] .crcError (by simp), fun _ => rfl⟩

/-- The write path is one update of the states with the same request (42_decode.md R132). -/
theorem writePath_update (rx : List Byte) (s : State) :
    ∃ u : Update, u.Fits .dec ∧ ∀ t, s.txbuf = t.txbuf → writePath rx (writeTxvalid false t) = u.apply t := by
  by_cases empty : rx.length = 0
  · exact ⟨_, Update.fits_dec none [] .timeoutError (by simp), fun _ _ => if_pos empty⟩
  by_cases length : rx.length ≠ Config.wrRspLen
  · exact ⟨_, Update.fits_dec none [] .shortFrameError (by simp), fun _ _ => (if_neg empty).trans (if_pos length)⟩
  by_cases crc : crc16 (crcCovered rx) = receivedCrc rx
  · by_cases echo : rx.take Config.headerLen = frameHeader s.txbuf
    · refine ⟨_, Update.fits_dec (some (crc16 (crcCovered rx))) [] .ok (by simp), fun t ht => ?_⟩
      have echo : rx.take Config.headerLen = frameHeader t.txbuf := ht ▸ echo
      exact (if_neg empty).trans ((if_neg length).trans ((if_pos crc).trans (if_pos echo)))
    · refine ⟨_, Update.fits_dec (some (crc16 (crcCovered rx))) [] .echoMismatchError (by simp), fun t ht => ?_⟩
      have echo : rx.take Config.headerLen ≠ frameHeader t.txbuf := ht ▸ echo
      exact (if_neg empty).trans ((if_neg length).trans ((if_pos crc).trans (if_neg echo)))
  · exact ⟨_, Update.fits_dec (some (crc16 (crcCovered rx))) [] .crcError (by simp),
      fun _ _ => (if_neg empty).trans ((if_neg length).trans (if_neg crc))⟩

theorem decodeResponse_update (rx : List Byte) (s : State) :
    ∃ u : Update, u.Fits .dec ∧ ∀ t, ReadsAlike .dec s t → decodeResponse rx t = u.apply t := by
  obtain ⟨hv, -⟩ | ⟨hv, hf, -⟩ | ⟨hv, hf, -⟩ := decodeResponse_cases rx s
  · exact ⟨_, Update.fits_refused .dec (k := .noRequest) (by simp), fun t alike =>
      decodeResponse_of_no_request ((alike.txvalid rfl).symm.trans hv)⟩
  · obtain ⟨u, fits, hu⟩ := readPath_update rx
    refine ⟨u, fits, fun t alike => (decodeResponse_of_read ?_ ?_).trans (hu t)⟩
    · rw [← alike.txvalid rfl, hv]
    · rw [← alike.txbuf rfl hv, hf]
  · obtain ⟨u, fits, hu⟩ := writePath_update rx s
    refine ⟨u, fits, fun t alike => (decodeResponse_of_write ?_ ?_).trans (hu t (alike.txbuf rfl hv))⟩
    · rw [← alike.txvalid rfl, hv]
    · rw [← alike.txbuf rfl hv, hf]

theorem fetchRegister_update (i : Nat) (s : State) :
    ∃ u : Update, u.Fits .getReg ∧ ∀ t, ReadsAlike .getReg s t → fetchRegister i t = u.apply t := by
  by_cases hi : s.dlen.toNat ≤ 2 * i + 1
  · refine ⟨_, Update.fits_refused .getReg (k := .indexRange) (by simp), fun t alike => ?_⟩
    rw [fetchRegister, ← alike.dlen (by simp), if_pos hi]
    rfl
  · refine ⟨_, Update.fits_fetched (dataRegister s i) (by simp), fun t alike => ?_⟩
    have bytes := alike.data (by simp)
    have value : dataRegister s i = dataRegister t i := by
      rw [dataRegister, bytes _ (by omega), bytes _ (by omega), dataRegister]
    rw [fetchRegister, ← alike.dlen (by simp), if_neg hi, ← value]
    rfl

theorem fetchBit_update (i : Nat) (s : State) :
    ∃ u : Update, u.Fits .getBit ∧ ∀ t, ReadsAlike .getBit s t → fetchBit i t = u.apply t := by
  by_cases hi : s.dlen.toNat ≤ i / 8
  · refine ⟨_, Update.fits_refused .getBit (k := .indexRange) (by simp), fun t alike => ?_⟩
    rw [fetchBit, ← alike.dlen (by simp), if_pos hi]
    rfl
  · refine ⟨_, Update.fits_fetched (bitWord (dataBit s i)) (by simp), fun t alike => ?_⟩
    have value : dataBit s i = dataBit t i := by
      rw [dataBit, alike.data (by simp) _ (by omega), dataBit]
    rw [fetchBit, ← alike.dlen (by simp), if_neg hi, ← value]
    rfl

/-- An instruction is one update, the same in every state that reads alike (10_state.md R33). -/
theorem exec_update (i : Instr) (s : State) :
    ∃ u : Update, u.Fits (commandRow i) ∧ ∀ t, ReadsAlike (commandRow i) s t → exec i t = .next (u.apply t) := by
  obtain ⟨s', h⟩ := exec_next i s
  cases exec_effect h with
  | illegal _ all => exact ⟨_, Update.fits_refused _ (k := .illegalCommand) (by simp), fun t _ => all t⟩
  | crcInit row all => exact ⟨_, Update.fits_crc 0xFFFF#16 .ok (by simp [row]), fun t _ => all t⟩
  | crcByte b row all =>
    refine ⟨_, Update.fits_crc (crcStep s.crc b) .ok (by simp [row]), fun t alike => ?_⟩
    rw [all, alike.crc row]
    rfl
  | crcBlock c row all => exact ⟨_, Update.fits_crc c .ok (by simp [row]), fun t _ => all t⟩
  | crcCheckShort _ all => exact ⟨_, Update.fits_refused _ (k := .shortFrameError) (by simp), fun t _ => all t⟩
  | crcCheck c k row code all =>
    obtain rfl | rfl := code
    · exact ⟨_, Update.fits_crc c .ok (by simp [row]), fun t _ => all t⟩
    · exact ⟨_, Update.fits_crc c .crcError (by simp [row]), fun t _ => all t⟩
  | built a b c d e f row supported all =>
    rw [row]
    exact ⟨_, Update.fits_built a b c d e f supported, fun t _ => all t⟩
  | unsupported _ all =>
    exact ⟨_, Update.fits_refused _ (k := .unsupportedFunction) (by simp), fun t _ => all t⟩
  | dec rx eq =>
    subst eq
    obtain ⟨u, fits, hu⟩ := decodeResponse_update rx s
    exact ⟨u, fits, fun t alike => congrArg Host.Outcome.next (hu t alike)⟩
  | getReg k eq =>
    subst eq
    obtain ⟨u, fits, hu⟩ := fetchRegister_update k.toNat s
    exact ⟨u, fits, fun t alike => congrArg Host.Outcome.next (hu t alike)⟩
  | getBit hi lo eq =>
    subst eq
    obtain ⟨u, fits, hu⟩ := fetchBit_update (be16 hi lo).toNat s
    exact ⟨u, fits, fun t alike => congrArg Host.Outcome.next (hu t alike)⟩

/-- The update an instruction makes in one state. -/
theorem exec_eq_apply {i : Instr} {s t : State} (h : exec i s = .next t) :
    ∃ u : Update, u.Fits (commandRow i) ∧ t = u.apply s := by
  obtain ⟨u, fits, hu⟩ := exec_update i s
  exact ⟨u, fits, next_injective (h.symm.trans (hu s (.refl _ s)))⟩

/-- Two states that read alike are changed by the same update. -/
theorem exec_eq_apply_both {i : Instr} {s t s' t' : State} (alike : ReadsAlike (commandRow i) s t)
    (hs : exec i s = .next s') (ht : exec i t = .next t') :
    ∃ u : Update, u.Fits (commandRow i) ∧ s' = u.apply s ∧ t' = u.apply t := by
  obtain ⟨u, fits, hu⟩ := exec_update i s
  exact ⟨u, fits, next_injective (hs.symm.trans (hu s (.refl _ s))), next_injective (ht.symm.trans (hu t alike))⟩

/-! ### The invariant (10_state.md R20, R25 to R28, 41_encode.md R117) -/

theorem statusCode_toNat_le (k : Status) : (statusCode k).toNat ≤ 8 := by cases k <;> decide

theorem Update.Fits.keeps_inv {u : Update} {row : CommandRow} (fits : u.Fits row) {s : State} (hs : s.Inv) :
    (u.apply s).Inv where
  status_code := statusCode_toNat_le u.outcome
  data_size := by
    cases hd : u.response with
    | none => exact (Update.apply_data_none hd (s := s)) ▸ hs.data_size
    | some d => exact (Update.apply_data_some hd (s := s)) ▸ writeData_size (fits.response d hd).2 hs.data_size
  dlen_le := by
    cases hd : u.response with
    | none => simpa [Update.apply_data_none hd, Update.apply_dlen_none hd] using hs.dlen_le
    | some d =>
      simp only [Update.apply_data_some hd, Update.apply_dlen_some hd, BitVec.toNat_ofNat, List.length_append]
      omega
  pending_held h := by
    cases hb : u.txvalid with
    | none => simp [hs.pending_held (by simpa [Update.apply, hb] using h)]
    | some b => simp [fits.pending (by simpa [Update.apply, hb] using h)]
  frame_function h := by
    cases hf : u.txbuf with
    | none => simpa [Update.apply, hf] using hs.frame_function (by simpa [hf] using h)
    | some f => simpa [Update.apply, hf] using (fits.frame f hf).1
  frame_crc h := by
    cases hf : u.txbuf with
    | none => simpa [Update.apply, hf] using hs.frame_crc (by simpa [hf] using h)
    | some f => simpa [Update.apply, hf] using (fits.frame f hf).2

theorem exec_keeps_inv {i : Instr} {s t : State} (hs : s.Inv) (h : exec i s = .next t) : t.Inv := by
  obtain ⟨u, fits, rfl⟩ := exec_eq_apply h
  exact fits.keeps_inv hs

/-- A step with no command presented changes nothing; any other executes the first command with the rest left. -/
theorem step_cases {s t : State} (h : step s = .next t) :
    t = s ∨ ∃ c p, exec (decode c) (withPort p s) = .next t := by
  cases hp : s.port with
  | nil =>
    simp only [step, takeCommand, hp] at h
    exact .inl (next_injective h).symm
  | cons c p =>
    simp only [step, takeCommand, hp] at h
    exact .inr ⟨c, p, h⟩

theorem State.Inv.withPort {s : State} (hs : s.Inv) (p : List Command) : (withPort p s).Inv :=
  ⟨hs.status_code, hs.data_size, hs.dlen_le, hs.pending_held, hs.frame_function, hs.frame_crc⟩

/-- Settles O3: a step with a command is one update of a state that differs in `port` only, and an update keeps the
invariant. -/
theorem stepKeepsTheInvariant : Obligations.StepKeepsTheInvariant := by
  intro s t hs h
  obtain rfl | ⟨c, p, hc⟩ := step_cases h
  · exact hs
  · exact exec_keeps_inv (hs.withPort p) hc

/-! ### The read and write matrix (10_state.md R33) -/

/-- A request frame is determined by its bytes. -/
theorem frame_ext_bytes {f g : Frame}
    (h : ∀ k : Fin 8, byteAt (frameBytes f) k.val = byteAt (frameBytes g) k.val) : f = g := by
  have bytes : frameBytes f = frameBytes g := List.ext_getElem rfl fun n hf hg => by
    have hn := h ⟨n, hf⟩
    rwa [byteAt, byteAt, List.getD_eq_getElem _ _ hf, List.getD_eq_getElem _ _ hg] at hn
  cases f
  cases g
  simpa [frameBytes] using bytes

theorem bitWord_injective : Function.Injective bitWord := by
  intro a b h
  cases a <;> cases b <;> simp_all [bitWord]

theorem setWidth16_injective {w : Nat} (hw : w ≤ 16) : Function.Injective (BitVec.setWidth 16 : BitVec w → Word) :=
  by
  intro a b h
  simpa [BitVec.setWidth_setWidth_of_le, hw] using congrArg (BitVec.setWidth w) h

theorem content_txvalid_inj {s t : State} (h : content .txvalid s = content .txvalid t) : s.txvalid = t.txvalid :=
  bitWord_injective (Option.some.inj h)

theorem content_dlen_inj {s t : State} (h : content .dlen s = content .dlen t) : s.dlen = t.dlen :=
  setWidth16_injective (by decide) (Option.some.inj h)

theorem content_data_inj {s t : State} {k : Fin 255} (h : content (.data k) s = content (.data k) t) :
    dataByte s k.val = dataByte t k.val := by
  have : s.data[k.val]? = t.data[k.val]? := Option.map_injective (setWidth16_injective (by decide)) h
  simp [dataByte, byteAt, List.getD_eq_getElem?_getD, this]

theorem content_txbuf_inj {s t : State} (held : s.txbufHeld = true)
    (h : ∀ k, content (.txbuf k) s = content (.txbuf k) t) : s.txbuf = t.txbuf := by
  refine frame_ext_bytes fun k => setWidth16_injective (w := 8) (by decide) ?_
  have hk := h k
  cases ht : t.txbufHeld <;> simp_all [content]

/-- A row reads `TXBUF` only under a pending request, which has been built, and `DATA` only below `DLEN`: states with
the same contents there read alike. -/
theorem readsAlike_of_content {row : CommandRow} {s t : State} (held : s.txvalid = true → s.txbufHeld = true)
    (registers : ∀ r, readsRegister row r = true → (∀ k, r ≠ .data k) → content r s = content r t)
    (data : row ∈ [.getReg, .getBit] → ∀ k < s.dlen.toNat, dataByte s k = dataByte t k) : ReadsAlike row s t where
  crc h := by
    subst h
    exact Option.some.inj (registers .crc rfl nofun)
  txvalid h := by
    subst h
    exact content_txvalid_inj (registers .txvalid rfl nofun)
  txbuf h hv := by
    subst h
    exact content_txbuf_inj (held hv) fun k => registers (.txbuf k) rfl nofun
  dlen h := by
    obtain rfl | rfl : row = .getReg ∨ row = .getBit := by simpa using h
    · exact content_dlen_inj (registers .dlen rfl nofun)
    · exact content_dlen_inj (registers .dlen rfl nofun)
  data := data

theorem dlen_toNat_le (s : State) : s.dlen.toNat ≤ 255 := Nat.le_of_lt_succ s.dlen.isLt

theorem readsAlike_of_matrix {row : CommandRow} {s t : State} (hs : s.Inv)
    (h : ∀ r, readsRegister row r = true → content r s = content r t) : ReadsAlike row s t := by
  refine readsAlike_of_content hs.pending_held (fun r hr _ => h r hr) fun hrow k hk => ?_
  have size := dlen_toNat_le s
  refine content_data_inj (k := ⟨k, by omega⟩) (h _ ?_)
  obtain rfl | rfl : row = .getReg ∨ row = .getBit := by simpa using hrow
  · rfl
  · rfl

/-- Settles O48: an instruction makes the same update in both states, and an update either writes a register, with a
content of its own, or leaves it. -/
theorem commandsKeepToTheMatrix : Obligations.CommandsKeepToTheMatrix := by
  constructor
  · intro i s t r h unmarked
    obtain ⟨u, fits, rfl⟩ := exec_eq_apply h
    refine Update.content_apply_of_not_writes (Bool.eq_false_iff.mpr fun hw => ?_)
    simp [fits.mayWrite hw] at unmarked
  · intro i s t s' t' hs _ h es et r
    obtain ⟨u, -, rfl, rfl⟩ := exec_eq_apply_both (readsAlike_of_matrix hs h) es et
    cases hw : u.writes r
    · exact .inr ⟨Update.content_apply_of_not_writes hw, Update.content_apply_of_not_writes hw⟩
    · exact .inl (Update.content_apply_of_writes hw)

/-! ### Registers without a value (10_state.md R36) -/

/-- A read that faults unless `p` holds faults exactly when `p` does not hold. -/
theorem ite_ok_eq_error_iff {p : Prop} [Decidable p] {v : Word} {e : Fault} :
    (if p then (.ok v : Except Fault Word) else .error e) = .error e ↔ ¬p := by
  by_cases h : p <;> simp [h]

theorem hostRead_txbuf_eq_error_iff (s : State) (k : Fin 8) :
    hostRead (.txbuf k) s = .error (.noValue (.txbuf k)) ↔ s.txbufHeld = false := by
  rw [hostRead_txbuf, ite_ok_eq_error_iff, Bool.not_eq_true]

theorem hostRead_data_eq_error_iff (s : State) (k : Fin 255) :
    hostRead (.data k) s = .error (.noValue (.data k)) ↔ s.dlen.toNat ≤ k.val := by
  rw [hostRead_data, ite_ok_eq_error_iff, not_lt]

theorem hostRead_res_eq_error_iff (s : State) : hostRead .res s = .error (.noValue .res) ↔ s.resHeld = false := by
  rw [hostRead_res, ite_ok_eq_error_iff, Bool.not_eq_true]

/-- Outside `DATA`, the host reads the same in two states exactly when the register has the same content. -/
theorem hostRead_eq_iff_content {r : HostReg} (hr : ∀ k, r ≠ .data k) {s t : State} :
    hostRead r s = hostRead r t ↔ content r s = content r t := by
  cases r with
  | crc => simp [content]
  | txbuf k => cases hs : s.txbufHeld <;> cases ht : t.txbufHeld <;> simp [hostRead_txbuf, content, hs, ht]
  | txvalid => simp [content]
  | data k => exact absurd rfl (hr k)
  | dlen => simp [content]
  | status => simp [content]
  | res => cases hs : s.resHeld <;> cases ht : t.resHeld <;> simp [hostRead_res, content, hs, ht]

/-- Agreement in everything that holds a value: the registers other than `DATA`, and `DATA` below `DLEN`. -/
theorem sameValues_iff {s t : State} :
    sameValues s t ↔ (∀ r, (∀ k, r ≠ .data k) → content r s = content r t) ∧
      ∀ k < s.dlen.toNat, dataByte s k = dataByte t k := by
  constructor
  · intro h
    have registers r (hr : ∀ k, r ≠ .data k) : content r s = content r t := (hostRead_eq_iff_content hr).mp (h r)
    refine ⟨registers, fun k hk => ?_⟩
    have size := dlen_toNat_le s
    have hk' : k < t.dlen.toNat := content_dlen_inj (registers .dlen nofun) ▸ hk
    have read := h (.data ⟨k, by omega⟩)
    rw [hostRead_data_of_lt hk, hostRead_data_of_lt hk'] at read
    exact setWidth16_injective (by decide) (Except.ok.inj read)
  · rintro ⟨registers, data⟩ r
    cases r with
    | data k =>
      rw [hostRead_data, hostRead_data, ← content_dlen_inj (registers .dlen nofun)]
      split
      next hk => rw [data k.val hk]
      next => rfl
    | _ => exact (hostRead_eq_iff_content (by simp)).mpr (registers _ (by simp))

theorem Update.apply_sameValues {u : Update} {s t : State} (small : ∀ d, u.response = some d → d.length ≤ 255)
    (h : sameValues s t) : sameValues (u.apply s) (u.apply t) := by
  obtain ⟨registers, data⟩ := sameValues_iff.mp h
  refine sameValues_iff.mpr ⟨fun r hr => ?_, fun k hk => ?_⟩
  · cases hw : u.writes r
    · rw [content_apply_of_not_writes hw, content_apply_of_not_writes hw, registers r hr]
    · exact content_apply_of_writes hw
  · cases hd : u.response with
    | none =>
      simp only [dataByte, apply_data_none hd]
      exact data k (apply_dlen_none hd (s := s) ▸ hk)
    | some d =>
      have hk : k < d.length := by
        have := small d hd
        simp only [apply_dlen_some hd, BitVec.toNat_ofNat] at hk
        omega
      simp [dataByte, byteAt, apply_data_some hd, List.getElem?_append_left hk]

theorem readsAlike_of_sameValues {row : CommandRow} {s t : State} (hs : s.Inv) (h : sameValues s t) :
    ReadsAlike row s t :=
  have ⟨registers, data⟩ := sameValues_iff.mp h
  readsAlike_of_content hs.pending_held (fun r _ => registers r) fun _ => data

theorem statusCode_eq_zero_iff (k : Status) : statusCode k = 0#4 ↔ k = .ok := by cases k <;> decide

/-- Settles O54: states with the same values read alike, so an instruction makes the same update in both; `TXBUF` and
`RES` are written by the updates of a successful `ENC` and `GET` alone. -/
theorem noValueIsNeverRead : Obligations.NoValueIsNeverRead := by
  refine ⟨hostRead_txbuf_eq_error_iff, hostRead_data_eq_error_iff, hostRead_res_eq_error_iff, ?_, ?_⟩
  · intro i s t h
    obtain ⟨u, fits, rfl⟩ := exec_eq_apply h
    simp only [Update.apply_txbufHeld, Update.apply_resHeld, Update.apply_status, Bool.or_eq_true, fits.txbuf,
      fits.res, statusCode_eq_zero_iff]
    exact ⟨or_comm, or_comm⟩
  · intro i s t s' t' hs h es et
    obtain ⟨u, fits, rfl, rfl⟩ := exec_eq_apply_both (readsAlike_of_sameValues hs h) es et
    exact Update.apply_sameValues (fun d hd => (fits.response d hd).2) h

/-! ### `STATUS` (10_state.md R28, R30) -/

theorem readsAlike_status (row : CommandRow) (s : State) (code : BitVec 4) :
    ReadsAlike row s { s with status := code } :=
  ⟨fun _ => rfl, fun _ => rfl, fun _ _ => rfl, fun _ => rfl, fun _ _ _ => rfl⟩

/-- Settles O50: states that differ in `STATUS` read alike, and an update overwrites `STATUS` with an outcome code. -/
theorem statusIsWrittenAndNeverRead : Obligations.StatusIsWrittenAndNeverRead := by
  refine ⟨fun i s code => ?_, fun i s t h => ?_, rfl⟩
  · obtain ⟨u, -, hu⟩ := exec_update i s
    exact (hu _ (readsAlike_status _ s code)).trans (hu s (.refl _ s)).symm
  · obtain ⟨u, -, rfl⟩ := exec_eq_apply h
    exact statusCode_toNat_le u.outcome

/-! ### Reset (10_state.md R35, 70_reset_and_hazards.md R211) -/

/-- Settles O1. -/
theorem resetLeavesTheStatedValues : Obligations.ResetLeavesTheStatedValues :=
  ⟨reset_crc, reset_txvalid, reset_dlen, reset_status,
    fun k => (hostRead_txbuf_eq_error_iff _ k).mpr reset_txbufHeld,
    fun k => (hostRead_data_eq_error_iff _ k).mpr (Nat.zero_le k.val),
    (hostRead_res_eq_error_iff _).mpr reset_resHeld⟩

/-- Settles O2: nothing is pending or built at reset, and `DLEN` is 0. -/
theorem resetMeetsTheInvariant : Obligations.ResetMeetsTheInvariant where
  status_code := by simp
  data_size := by simp
  dlen_le := by simp
  pending_held := nofun
  frame_function := nofun
  frame_crc := nofun

/-- Settles O55: no request is pending and no byte of `DATA` is valid at reset. -/
theorem firstCommandAfterReset : Obligations.FirstCommandAfterReset := by
  refine ⟨fun b => rfl, fun rx => ?_, fun i => ?_, fun iHi iLo => ?_, fun h0 h1 h2 h3 h4 h5 supported => ?_⟩
  · exact congrArg Host.Outcome.next (decodeResponse_of_no_request reset_txvalid)
  · exact congrArg Host.Outcome.next (if_pos (Nat.zero_le _))
  · exact congrArg Host.Outcome.next (if_pos (Nat.zero_le _))
  · exact ⟨_, congrArg Host.Outcome.next (encodeRequest_of_supported supported), rfl, rfl⟩

end Sys2Proof.Machine
end

section
/-! PROOF. The encodings (30_encoding.md): what code 0x5 decodes to, said once as a relation between argument bytes and instructions; from this decode and encode undo each other, the meaning is kept, and the function byte of a 64-bit word selects its request. -/

namespace Sys2Proof.Machine

/-! ### The supported functions (00_scope.md R13) -/

theorem isFc_eq_true_iff (x : Byte) :
    isFc x = true ↔ x = 0x01#8 ∨ x = 0x02#8 ∨ x = 0x03#8 ∨ x = 0x05#8 ∨ x = 0x06#8 := by
  simp [isFc, isReadFc, isWriteFc, or_assoc]

theorem isFc_eq_false_iff (x : Byte) :
    isFc x = false ↔ x ≠ 0x01#8 ∧ x ≠ 0x02#8 ∧ x ≠ 0x03#8 ∧ x ≠ 0x05#8 ∧ x ≠ 0x06#8 := by
  simp [← Bool.not_eq_true, isFc_eq_true_iff]

theorem wellFormed_encRaw (h0 h1 h2 h3 h4 h5 : Byte) : (Instr.encRaw h0 h1 h2 h3 h4 h5).wellFormed = !isFc h1 := by
  simp [Instr.wellFormed, Config.readFunctions, Config.writeFunctions, isFc, isReadFc, isWriteFc, Bool.or_assoc,
    beq_eq_decide]

/-! ### The forms of code 0x5 (R69, R74, R76) -/

/-- Which instruction an argument of code 0x5 is: one of the five requests, `ENC.RAW` for any other function, the row
`ENC` for any other length. -/
inductive EncForm : List Byte → Instr → Prop where
  | rdc (slave : Byte) (addr count : Word) :
      EncForm (headerBytes slave 0x01#8 addr count) (.encRdc slave addr count)
  | rdi (slave : Byte) (addr count : Word) :
      EncForm (headerBytes slave 0x02#8 addr count) (.encRdi slave addr count)
  | rdh (slave : Byte) (addr count : Word) :
      EncForm (headerBytes slave 0x03#8 addr count) (.encRdh slave addr count)
  | wrb (slave : Byte) (addr value : Word) :
      EncForm (headerBytes slave 0x05#8 addr value) (.encWrb slave addr value)
  | wrr (slave : Byte) (addr value : Word) :
      EncForm (headerBytes slave 0x06#8 addr value) (.encWrr slave addr value)
  | raw (h0 h1 h2 h3 h4 h5 : Byte) (unsupported : isFc h1 = false) :
      EncForm [h0, h1, h2, h3, h4, h5] (.encRaw h0 h1 h2 h3 h4 h5)
  | otherLength (arg : List Byte) (length_ne : arg.length ≠ 6) : EncForm arg (.enc arg)

theorem exists_headerBytes_of_length {arg : List Byte} (h : arg.length = 6) :
    ∃ slave function addr cv, arg = headerBytes slave function addr cv := by
  obtain ⟨h0, h1, h2, h3, h4, h5, rfl⟩ := exists_six_of_length h
  exact ⟨h0, h1, be16 h2 h3, be16 h4 h5, by simp [headerBytes]⟩

/-- Every argument has a form. -/
theorem exists_encForm (arg : List Byte) : ∃ i, EncForm arg i := by
  by_cases h6 : arg.length = 6
  · obtain ⟨slave, function, addr, cv, rfl⟩ := exists_headerBytes_of_length h6
    cases hf : isFc function
    · exact ⟨_, .raw _ _ _ _ _ _ hf⟩
    · obtain rfl | rfl | rfl | rfl | rfl := (isFc_eq_true_iff function).mp hf
      · exact ⟨_, .rdc slave addr cv⟩
      · exact ⟨_, .rdi slave addr cv⟩
      · exact ⟨_, .rdh slave addr cv⟩
      · exact ⟨_, .wrb slave addr cv⟩
      · exact ⟨_, .wrr slave addr cv⟩
  · exact ⟨_, .otherLength arg h6⟩

theorem EncForm.decodeEnc_eq {arg : List Byte} {i : Instr} (h : EncForm arg i) : decodeEnc arg = i := by
  cases h with
  | rdc => simp [headerBytes, decodeEnc_six]
  | rdi => simp [headerBytes, decodeEnc_six]
  | rdh => simp [headerBytes, decodeEnc_six]
  | wrb => simp [headerBytes, decodeEnc_six]
  | wrr => simp [headerBytes, decodeEnc_six]
  | raw h0 h1 h2 h3 h4 h5 unsupported =>
    obtain ⟨n1, n2, n3, n5, n6⟩ := (isFc_eq_false_iff h1).mp unsupported
    rw [decodeEnc_six, if_neg n1, if_neg n2, if_neg n3, if_neg n5, if_neg n6]
  | otherLength _ length_ne => exact decodeEnc_of_length_ne length_ne

theorem decodeEnc_form (arg : List Byte) : EncForm arg (decodeEnc arg) := by
  obtain ⟨i, h⟩ := exists_encForm arg
  rwa [h.decodeEnc_eq]

theorem EncForm.encode_eq {arg : List Byte} {i : Instr} (h : EncForm arg i) : encode i = ⟨0x5#4, arg⟩ := by
  cases h <;> rfl

theorem EncForm.exec_eq {arg : List Byte} {i : Instr} (h : EncForm arg i) (s : State) :
    exec i s = exec (.enc arg) s := by
  cases h <;> rfl

/-- A six-byte argument is a well-formed request or `ENC.RAW`. -/
theorem EncForm.wellFormed_and_ne_enc {arg : List Byte} {i : Instr} (h : EncForm arg i) (h6 : arg.length = 6) :
    i.wellFormed = true ∧ ∀ arg', i ≠ .enc arg' := by
  cases h with
  | raw _ _ _ _ _ _ unsupported => exact ⟨by simp [wellFormed_encRaw, unsupported], nofun⟩
  | otherLength _ length_ne => exact absurd h6 length_ne
  | _ => exact ⟨rfl, nofun⟩

/-! ### Decode and encode undo each other (R74, R76) -/

theorem decode_encode_of_wellFormed {i : Instr} (wf : i.wellFormed = true) (ne_enc : ∀ arg, i ≠ .enc arg) :
    decode (encode i) = i := by
  cases i with
  | encRdc slave addr count => exact (EncForm.rdc slave addr count).decodeEnc_eq
  | encRdi slave addr count => exact (EncForm.rdi slave addr count).decodeEnc_eq
  | encRdh slave addr count => exact (EncForm.rdh slave addr count).decodeEnc_eq
  | encWrb slave addr value => exact (EncForm.wrb slave addr value).decodeEnc_eq
  | encWrr slave addr value => exact (EncForm.wrr slave addr value).decodeEnc_eq
  | encRaw h0 h1 h2 h3 h4 h5 =>
    have unsupported : isFc h1 = false := by simpa [wellFormed_encRaw] using wf
    exact (EncForm.raw h0 h1 h2 h3 h4 h5 unsupported).decodeEnc_eq
  | enc arg => exact absurd rfl (ne_enc arg)
  | _ => rfl

/-- Settles O11, by the sixteen command codes; under code 0x5 every form is written as its argument. -/
theorem encodeOfDecodeIsTheCommand : Obligations.EncodeOfDecodeIsTheCommand := by
  rintro ⟨⟨⟨n, hn⟩⟩, arg⟩
  interval_cases n
  exacts [rfl, rfl, rfl, rfl, rfl, (decodeEnc_form arg).encode_eq, rfl, rfl, rfl, rfl, rfl, rfl, rfl, rfl, rfl, rfl]

/-- Settles O10: outside code 0x5 the decoder answers the code's constructor, under it the form of the argument. -/
theorem decodeOfEncodeIsTheInstruction : Obligations.DecodeOfEncodeIsTheInstruction := by
  refine ⟨fun i => decode_encode_of_wellFormed, fun arg => ⟨rfl, rfl, rfl, rfl⟩, fun arg => decodeEnc_of_length_ne,
    fun arg h6 => ?_⟩
  have ⟨wf, ne_enc⟩ := (decodeEnc_form arg).wellFormed_and_ne_enc h6
  exact ⟨wf, ne_enc, encodeOfDecodeIsTheCommand _⟩

/-- Settles O12: every instruction written under code 0x5 means what `ENC` of its bytes means, and so does the form
that is decoded from them; every other instruction comes back itself. -/
theorem decodingKeepsTheMeaning : Obligations.DecodingKeepsTheMeaning := by
  intro i s
  cases i with
  | encRdc slave addr count => exact (decodeEnc_form (headerBytes slave 0x01#8 addr count)).exec_eq s
  | encRdi slave addr count => exact (decodeEnc_form (headerBytes slave 0x02#8 addr count)).exec_eq s
  | encRdh slave addr count => exact (decodeEnc_form (headerBytes slave 0x03#8 addr count)).exec_eq s
  | encWrb slave addr value => exact (decodeEnc_form (headerBytes slave 0x05#8 addr value)).exec_eq s
  | encWrr slave addr value => exact (decodeEnc_form (headerBytes slave 0x06#8 addr value)).exec_eq s
  | encRaw h0 h1 h2 h3 h4 h5 => exact (decodeEnc_form [h0, h1, h2, h3, h4, h5]).exec_eq s
  | enc arg => exact (decodeEnc_form arg).exec_eq s
  | _ => rfl

/-- Settles O9: an `ENC` line is decoded by its form, any other line by its code. -/
theorem syntaxLinesAreTheirCommands : Obligations.SyntaxLinesAreTheirCommands := by
  intro b h0 h1 h2 h3 h4 h5 bs a v
  exact ⟨⟨rfl, rfl⟩, ⟨rfl, rfl⟩, ⟨rfl, rfl⟩, ⟨rfl, rfl⟩,
    ⟨rfl, (EncForm.rdc b a v).decodeEnc_eq⟩, ⟨rfl, (EncForm.rdi b a v).decodeEnc_eq⟩,
    ⟨rfl, (EncForm.rdh b a v).decodeEnc_eq⟩, ⟨rfl, (EncForm.wrb b a v).decodeEnc_eq⟩,
    ⟨rfl, (EncForm.wrr b a v).decodeEnc_eq⟩, rfl, ⟨rfl, rfl⟩, ⟨rfl, rfl⟩, ⟨rfl, rfl⟩⟩

/-! ### Reserved codes and wrong argument lengths (R75) -/

theorem exec_crcInit_of_length_ne {arg : List Byte} (h : arg.length ≠ 0) (s : State) :
    exec (.crcInit arg) s = .next { s with status := 7#4 } := by
  cases arg with
  | nil => exact absurd rfl h
  | cons => rfl

theorem exec_crcByte_of_length_ne {arg : List Byte} (h : arg.length ≠ 1) (s : State) :
    exec (.crcByte arg) s = .next { s with status := 7#4 } := by
  simp only [exec, execCrcByte]
  split
  · exact absurd rfl h
  · rfl

theorem exec_getReg_of_length_ne {arg : List Byte} (h : arg.length ≠ 1) (s : State) :
    exec (.getReg arg) s = .next { s with status := 7#4 } := by
  simp only [exec, execGetReg]
  split
  · exact absurd rfl h
  · rfl

theorem exec_getBit_of_length_ne {arg : List Byte} (h : arg.length ≠ 2) (s : State) :
    exec (.getBit arg) s = .next { s with status := 7#4 } := by
  simp only [exec, execGetBit]
  split
  · exact absurd rfl h
  · rfl

/-- Settles O14. -/
theorem reservedInstructionsComplete : Obligations.ReservedInstructionsComplete :=
  fun _ _ => ⟨rfl, rfl, rfl, rfl, rfl, rfl, rfl, rfl⟩

/-- Settles O13: a reserved code is a reserved instruction; of a fixed-length code the length decides. -/
theorem reservedOrMislengthedIsIllegal : Obligations.ReservedOrMislengthedIsIllegal := by
  rintro ⟨cmd, arg⟩ s (reserved | ⟨rfl, h⟩ | ⟨rfl, h⟩ | ⟨rfl, h⟩ | ⟨rfl, h⟩ | ⟨rfl, h⟩)
  · obtain ⟨e0, e9, eA, eB, eC, eD, eE, eF⟩ := reservedInstructionsComplete arg s
    simp only [List.mem_cons, List.not_mem_nil, or_false] at reserved
    obtain rfl | rfl | rfl | rfl | rfl | rfl | rfl | rfl := reserved
    exacts [e0, e9, eA, eB, eC, eD, eE, eF]
  · exact exec_crcInit_of_length_ne h s
  · exact exec_crcByte_of_length_ne h s
  · exact (congrArg (exec · s) (decodeEnc_of_length_ne h)).trans (exec_enc_of_length_ne h s)
  · exact exec_getReg_of_length_ne h s
  · exact exec_getBit_of_length_ne h s

/-! ### The function byte of a 64-bit word (R69) -/

/-- The match value of R69 for a function byte: the byte in `W[55:48]`, every other bit 0. -/
def matchValue (function : Byte) : BitVec 64 := function.setWidth 64 <<< 48

theorem getLsbD_matchValue (function : Byte) {i : Nat} (hi : i < 64) :
    (matchValue function).getLsbD i = (!decide (i < 48) && function.getLsbD (i - 48)) := by
  simp [matchValue, hi]

theorem extractLsb'_matchValue (function : Byte) : (matchValue function).extractLsb' 48 8 = function := by
  apply BitVec.eq_of_getLsbD_eq
  intro i hi
  rw [BitVec.getLsbD_extractLsb', getLsbD_matchValue function (by omega)]
  simp [hi]

theorem matchValue_injective : Function.Injective matchValue :=
  Function.LeftInverse.injective extractLsb'_matchValue

/-- What the mask leaves of a word is the match value of its function byte. -/
theorem and_mask_eq_matchValue (W : BitVec 64) :
    W &&& 0x00FF000000000000#64 = matchValue (W.extractLsb' 48 8) := by
  have mask : 0x00FF000000000000#64 = matchValue (BitVec.allOnes 8) := rfl
  apply BitVec.eq_of_getLsbD_eq
  intro i hi64
  simp only [mask, BitVec.getLsbD_and, getLsbD_matchValue _ hi64, BitVec.getLsbD_allOnes, BitVec.getLsbD_extractLsb']
  by_cases low : i < 48
  · simp [low]
  · simp [low, Nat.add_sub_cancel' (Nat.not_lt.mp low), Bool.and_comm]

theorem and_mask_eq_matchValue_iff (W : BitVec 64) (function : Byte) :
    W &&& 0x00FF000000000000#64 = matchValue function ↔ W.extractLsb' 48 8 = function := by
  rw [and_mask_eq_matchValue, matchValue_injective.eq_iff]

theorem hi8_extractLsb' (W : BitVec 64) (k : Nat) : hi8 (W.extractLsb' k 16) = W.extractLsb' (k + 8) 8 := by
  apply BitVec.eq_of_getLsbD_eq
  intro i hi
  simp [hi8, hi, Nat.add_assoc, show 8 + i < 16 by omega]

theorem lo8_extractLsb' (W : BitVec 64) (k : Nat) : lo8 (W.extractLsb' k 16) = W.extractLsb' k 8 := by
  apply BitVec.eq_of_getLsbD_eq
  intro i hi
  simp [lo8, hi, show i < 16 by omega]

/-- A 64-bit table word is the `ENC` of the header in its upper six bytes (log entry 4). -/
theorem decodeTableWord_of_form (w : Nat) {function : Byte} {i : Instr}
    (hf : (BitVec.ofNat 64 w).extractLsb' 48 8 = function)
    (form : EncForm (headerBytes ((BitVec.ofNat 64 w).extractLsb' 56 8) function
      ((BitVec.ofNat 64 w).extractLsb' 32 16) ((BitVec.ofNat 64 w).extractLsb' 16 16)) i) :
    decodeTableWord 64 w = some i := by
  subst hf
  rw [← form.decodeEnc_eq]
  simp only [headerBytes, hi8_extractLsb', lo8_extractLsb']
  rfl

/-- Settles O8: a match value selects its function byte, and the word is decoded by the form of its header. -/
theorem functionByteSelectsTheRequest : Obligations.FunctionByteSelectsTheRequest := by
  intro w W selected slave function addr cv
  have selects (x : Byte) : selected = matchValue x ↔ function = x := and_mask_eq_matchValue_iff W x
  refine ⟨fun h => ?_, fun h => ?_, fun h => ?_, fun h => ?_, fun h => ?_, fun h => ?_⟩
  · have hf := (selects 0x01#8).mp h
    exact ⟨decodeTableWord_of_form w hf (.rdc slave addr cv), congrArg isReadFc hf⟩
  · have hf := (selects 0x02#8).mp h
    exact ⟨decodeTableWord_of_form w hf (.rdi slave addr cv), congrArg isReadFc hf⟩
  · have hf := (selects 0x03#8).mp h
    exact ⟨decodeTableWord_of_form w hf (.rdh slave addr cv), congrArg isReadFc hf⟩
  · have hf := (selects 0x05#8).mp h
    exact ⟨decodeTableWord_of_form w hf (.wrb slave addr cv), congrArg isWriteFc hf⟩
  · have hf := (selects 0x06#8).mp h
    exact ⟨decodeTableWord_of_form w hf (.wrr slave addr cv), congrArg isWriteFc hf⟩
  · have unsupported : isFc function = false := by
      refine (isFc_eq_false_iff function).mpr ⟨?_, ?_, ?_, ?_, ?_⟩ <;>
        exact fun hf => h (by simp [(selects _).mpr hf, matchValue])
    exact ⟨decodeTableWord_of_form w rfl (.raw _ _ _ _ _ _ unsupported), unsupported⟩

end Sys2Proof.Machine
end

section
/-! PROOF. The CRC and the CRC family (40_crc.md): the CRC step loses nothing of the accumulator or of the byte, a frame that carries its own CRC leaves the accumulator at zero, and from these two facts the laws of frames follow; the four commands of the family, and which commands repeated change nothing more. -/

namespace Sys2Proof.Machine

/-! ### The CRC step loses nothing (R90) -/

/-- Bit 15 of `POLY_REFLECTED` is 1, so the bit shifted out can be read off the top bit of the result. -/
theorem getLsbD_crcShift (c : Word) (i : Nat) :
    (crcShift c).getLsbD i = (c.getLsbD (i + 1) ^^ (c.getLsbD 0 && Config.crcPolyReflected.getLsbD i)) := by
  unfold crcShift
  cases c.getLsbD 0 <;> simp [Nat.add_comm]

theorem crcShift_injective : Function.Injective crcShift := by
  intro c d h
  have bits (i : Nat) := congrArg (·.getLsbD i) h
  simp only [getLsbD_crcShift] at bits
  have low : c.getLsbD 0 = d.getLsbD 0 := by simpa [Config.crcPolyReflected] using bits 15
  apply BitVec.eq_of_getLsbD_eq
  intro i _
  cases i with
  | zero => exact low
  | succ i => simpa only [low, Bool.xor_left_inj] using bits i

theorem crcShifts_injective (n : Nat) : Function.Injective (crcShifts n) := by
  induction n with
  | zero => exact fun _ _ h => h
  | succ n ih => exact ih.comp crcShift_injective

theorem crcStep_left_injective (b : Byte) : Function.Injective (crcStep · b) := fun _ _ h =>
  (BitVec.xor_left_inj _).mp (crcShifts_injective 8 h)

theorem crcStep_right_injective (c : Word) : Function.Injective (crcStep c) := fun _ _ h =>
  setWidth16_injective (by decide) ((BitVec.xor_right_inj c).mp (crcShifts_injective 8 h))

theorem crcFrom_injective (s : List Byte) : Function.Injective (crcFrom · s) := by
  induction s with
  | nil => exact fun _ _ h => h
  | cons b s ih => exact ih.comp (crcStep_left_injective b)

/-- Any change of one byte changes the CRC. -/
theorem crc16_modify_ne {f : List Byte} {k : Nat} (hk : k < f.length) {g : Byte → Byte} (hg : ∀ b, g b ≠ b) :
    crc16 (f.modify k g) ≠ crc16 f := by
  obtain ⟨s, b, t, rfl, -, modified⟩ := List.exists_of_modify g hk
  rw [modified, crc16_eq_crcFrom, crc16_eq_crcFrom, crcFrom_append, crcFrom_append, crcFrom_cons, crcFrom_cons]
  exact fun h => hg b (crcStep_right_injective _ (crcFrom_injective t h))

/-! ### A frame that carries its own CRC (R92, R98 to R100) -/

/-- While the bits shifted out are 0 the polynomial does not come in. -/
theorem crcShifts_of_low_zero {n : Nat} {c : Word} (h : ∀ i < n, c.getLsbD i = false) :
    crcShifts n c = c >>> n := by
  induction n generalizing c with
  | zero => simp [crcShifts_zero]
  | succ n ih =>
    have shift : crcShift c = c >>> 1 := if_neg (Bool.eq_false_iff.mp (h 0 n.succ_pos))
    have rest : ∀ i < n, (c >>> 1).getLsbD i = false := fun i hi => by
      simpa [Nat.add_comm] using h (i + 1) (by omega)
    rw [crcShifts_succ, shift, ih rest, ← BitVec.shiftRight_add, Nat.add_comm]

/-- The low byte of the accumulator cancels its low half, and the high half moves down. -/
theorem crcStep_lo8 (c : Word) : crcStep c (lo8 c) = (hi8 c).setWidth 16 := by
  rw [crcStep, crcShifts_of_low_zero fun i hi => by simp [lo8, hi, show i < 16 by omega]]
  apply BitVec.eq_of_getLsbD_eq
  intro i hi
  have high : c.getLsbD (8 + i) = true → i < 8 := fun h => by have := BitVec.lt_of_getLsbD h; omega
  simpa [lo8, hi8, hi] using high

/-- A byte that equals the accumulator cancels it. -/
theorem crcStep_setWidth_self (b : Byte) : crcStep (b.setWidth 16) b = 0x0000#16 := by
  rw [crcStep, BitVec.xor_self, crcShifts_of_low_zero fun _ _ => BitVec.getLsbD_zero, BitVec.zero_ushiftRight]

/-- Settles O23: the two CRC bytes, low byte first, cancel the accumulator half by half. -/
theorem residueIsZero : Obligations.ResidueIsZero := by
  intro s
  rw [crc16_eq_crcFrom, withCrc, crcFrom_append, ← crc16_eq_crcFrom, crcFrom_cons, crcFrom_cons, crcFrom_nil,
    crcStep_lo8, crcStep_setWidth_self]

theorem crcOk_withCrc (s : List Byte) : crcOk (withCrc s) = true := by
  rw [withCrc, crcOk_append_pair, be16_hi8_lo8, beq_self_eq_true]

theorem length_withCrc (s : List Byte) : (withCrc s).length = s.length + 2 := by simp [withCrc]

/-- What the frame check accepts is a byte sequence with its CRC. -/
theorem eq_withCrc_of_crcOk {f : List Byte} (h2 : 2 ≤ f.length) (ok : crcOk f = true) :
    f = withCrc (crcCovered f) := by
  obtain ⟨lo, hi, pair⟩ := List.length_eq_two.mp (show (f.drop (f.length - 2)).length = 2 by simp; omega)
  have parts : f = crcCovered f ++ [lo, hi] := by rw [← pair, crcCovered, List.take_append_drop]
  have crc : crc16 (crcCovered f) = be16 hi lo := by
    rw [parts, crcOk_append_pair] at ok
    exact beq_iff_eq.mp ok
  rw [withCrc, crc, lo8_be16, hi8_be16]
  exact parts

/-- Settles O22: an accepted frame has residue zero, as the unflipped frame has, but one changed byte changes the
CRC. -/
theorem singleBitSensitivity : Obligations.SingleBitSensitivity := by
  intro s k j hk hj
  have flips (b : Byte) : b ^^^ (1#8 <<< j) ≠ b := fun h => by
    simpa [hj] using congrArg (·.getLsbD j) h
  have length : 2 ≤ (flipBit (withCrc s) k j).length := by simp [flipBit, length_withCrc]
  refine Bool.eq_false_iff.mpr fun ok => crc16_modify_ne hk flips ?_
  have residue := congrArg crc16 (eq_withCrc_of_crcOk length ok)
  rw [residueIsZero] at residue
  exact residue.trans (residueIsZero s).symm

/-- A successful `ENC` has built the frame of some header (41_encode.md R110). -/
theorem eq_builtState_of_enc_ok {i : Instr} {s t : State} (row : commandRow i = .enc) (h : exec i s = .next t)
    (ok : t.status = 0#4) : ∃ a b c d e f, t = builtState a b c d e f s := by
  cases exec_effect h with
  | built a b c d e f => exact ⟨a, b, c, d, e, f, rfl⟩
  | illegal => exact absurd ok (by simp)
  | unsupported => exact absurd ok (by simp)
  | _ => simp_all [commandRow] -- the effects of other rows

theorem exec_crcCheck_withCrc (s : List Byte) (u : State) :
    exec (.crcCheck (withCrc s)) u = .next { u with crc := crc16 s, status := 0#4 } := by
  rw [exec_crcCheck_good (by simp [length_withCrc]) (crcOk_withCrc s), withCrc, crcCovered_append_pair]

/-- Settles O21: a built frame is its header with its CRC. -/
theorem acceptanceLaw : Obligations.AcceptanceLaw := by
  refine ⟨crcOk_withCrc, fun i s t u row h ok => ?_⟩
  obtain ⟨a, b, c, d, e, f, rfl⟩ := eq_builtState_of_enc_ok row h ok
  exact exec_crcCheck_withCrc [a, b, c, d, e, f] u

/-! ### The four commands (R93 to R97) -/

/-- Settles O15. -/
theorem crcInitSetsTheInitialValue : Obligations.CrcInitSetsTheInitialValue :=
  ⟨fun _ => rfl, fun _ s nonempty => exec_crcInit_of_length_ne (mt List.eq_nil_of_length_eq_zero nonempty) s⟩

theorem exec_crcByte (b : Byte) (s : State) :
    exec (.crcByte [b]) s = .next { s with crc := crcStep s.crc b, status := 0#4 } := rfl

/-- Settles O16. -/
theorem crcByteAdvancesTheAccumulator : Obligations.CrcByteAdvancesTheAccumulator := by
  refine ⟨exec_crcByte, fun _ s h => exec_crcByte_of_length_ne h s, by decide, by decide, fun c => ?_⟩
  rw [crcStep, BitVec.setWidth_zero, BitVec.xor_zero]

/-- Settles O17. -/
theorem crcBlockComputesTheCrc : Obligations.CrcBlockComputesTheCrc :=
  ⟨fun _ _ => rfl, fun _ => rfl, by decide +kernel⟩

/-- Settles O18: the length decides first, then the comparison of R92. -/
theorem crcCheckRecomputesAndCompares : Obligations.CrcCheckRecomputesAndCompares := by
  intro f s L c received
  refine ⟨fun short => exec_crcCheck_short short s, fun long differ => ?_, fun long equal => ?_⟩
  · exact exec_crcCheck_bad (Nat.not_lt.mpr long) (beq_eq_false_iff_ne.mpr differ) s
  · exact exec_crcCheck_good (Nat.not_lt.mpr long) (beq_iff_eq.mpr equal) s

/-- `CRC.BYTE`s after a success leave the accumulator advanced by their bytes and a success. -/
theorem runInstrs_crcBytes (bytes : List Byte) (c : Word) (s : State) :
    runInstrs (bytes.map fun b => .crcByte [b]) { s with crc := c, status := 0#4 } =
      .next { s with crc := crcFrom c bytes, status := 0#4 } := by
  induction bytes generalizing c with
  | nil => rfl
  | cons b bytes ih => exact ih (crcStep c b)

/-- Settles O20, by induction on the bytes presented after `CRC.INIT`. -/
theorem incrementalLaw : Obligations.IncrementalLaw := by
  have run (bytes : List Byte) (s : State) : runInstrs (.crcInit [] :: bytes.map fun b => .crcByte [b]) s =
      .next { s with crc := crc16 bytes, status := 0#4 } := by
    rw [crc16_eq_crcFrom]
    exact runInstrs_crcBytes bytes 0xFFFF#16 s
  refine ⟨fun s t => ?_, fun bytes s => ⟨run bytes s, run bytes s⟩⟩
  rw [crcFrom_append, crc16_eq_crcFrom]

/-! ### Repeated commands (20_memory.md R49) -/

theorem Update.apply_apply (u : Update) (s : State) : u.apply (u.apply s) = u.apply s := by
  have again {α : Type} (o : Option α) (a : α) : o.getD (o.getD a) = o.getD a := by cases o <;> rfl
  cases hd : u.response <;> simp [apply, again, hd]

/-- The five rows write no register that they read. -/
theorem readsAlike_apply {row : CommandRow} (idempotent : row ∈ [.crcBlock, .crcCheck, .getReg, .getBit, .enc])
    {u : Update} (fits : u.Fits row) (s : State) : ReadsAlike row s (u.apply s) := by
  have not_byte : row ≠ .crcByte := by rintro rfl; simp at idempotent
  have not_dec : row ≠ .dec := by rintro rfl; simp at idempotent
  have response : u.response = none := Option.eq_none_iff_forall_not_mem.mpr fun d hd =>
    not_dec (fits.response d hd).1
  exact ⟨fun h => absurd h not_byte, fun h => absurd h not_dec, fun h => absurd h not_dec,
    fun _ => (Update.apply_dlen_none response).symm,
    fun _ k _ => congrArg (byteAt · k) (Update.apply_data_none response).symm⟩

theorem exec_idempotent {i : Instr} (row : commandRow i ∈ [.crcBlock, .crcCheck, .getReg, .getBit, .enc])
    {s t : State} (h : exec i s = .next t) : exec i t = .next t := by
  obtain ⟨u, fits, hu⟩ := exec_update i s
  obtain rfl := next_injective (h.symm.trans (hu s (.refl _ s)))
  rw [hu _ (readsAlike_apply row fits s), Update.apply_apply]

theorem readPath_txvalid (rx : List Byte) (s : State) : (readPath rx s).txvalid = s.txvalid := by
  obtain ⟨-, h⟩ | ⟨-, -, h⟩ | ⟨-, -, h⟩ | ⟨-, -, h⟩ := readPath_cases rx s <;> rw [h]

theorem writePath_txvalid (rx : List Byte) (s : State) : (writePath rx s).txvalid = s.txvalid := by
  obtain ⟨-, h⟩ | ⟨-, -, h⟩ | ⟨-, -, h⟩ | ⟨-, -, -, h⟩ | ⟨-, -, -, h⟩ := writePath_cases rx s <;> rw [h]

/-- After `DEC` no request is pending, whatever its outcome (42_decode.md R130). -/
theorem decodeResponse_txvalid (rx : List Byte) (s : State) : (decodeResponse rx s).txvalid = false := by
  obtain ⟨hv, h⟩ | ⟨-, -, h⟩ | ⟨-, -, h⟩ := decodeResponse_cases rx s <;> rw [h]
  · exact hv
  · exact readPath_txvalid rx _
  · exact writePath_txvalid rx _

/-- Settles O53: the five write no register that they read, `CRC.BYTE 0x00` moves the accumulator on from its reset value
and so moves it on again, and `DEC` leaves no request pending. -/
theorem idempotentCommands : Obligations.IdempotentCommands := by
  refine ⟨fun i s t row h => exec_idempotent row h, ⟨0x00#8, State.reset, _, exec_crcByte _ _, fun h => ?_⟩,
    fun rx rx' s t h => ?_⟩
  · have advanced : crcStep State.reset.crc 0x00#8 ≠ State.reset.crc := by decide
    rw [exec_crcByte] at h
    exact advanced (crcStep_left_injective 0x00#8 (congrArg State.crc (next_injective h)))
  · obtain rfl := next_injective h
    exact congrArg Host.Outcome.next (decodeResponse_of_no_request (decodeResponse_txvalid rx s))

end Sys2Proof.Machine
end

section
/-! PROOF. The request encoder (41_encode.md): a six-byte header of a supported function is built in every state, one of another function is refused; the five requests and `ENC.RAW` are forms of `ENC`; a built frame is its header with its CRC, so the laws of frames apply to it. -/

namespace Sys2Proof.Machine

/-! ### The outcomes of a six-byte header (R110 to R116) -/

theorem mem_supported_iff_isFc (x : Byte) : x ∈ [0x01#8, 0x02#8, 0x03#8, 0x05#8, 0x06#8] ↔ isFc x = true := by
  simp [isFc_eq_true_iff]

theorem exec_enc_of_supported {h1 : Byte} (supported : isFc h1 = true) (h0 h2 h3 h4 h5 : Byte) (s : State) :
    exec (.enc [h0, h1, h2, h3, h4, h5]) s = .next (builtState h0 h1 h2 h3 h4 h5 s) :=
  congrArg Host.Outcome.next (encodeRequest_of_supported supported)

theorem exec_enc_of_unsupported {h1 : Byte} (unsupported : isFc h1 = false) (h0 h2 h3 h4 h5 : Byte) (s : State) :
    exec (.enc [h0, h1, h2, h3, h4, h5]) s = .next { s with status := 5#4 } :=
  congrArg Host.Outcome.next (encodeRequest_of_unsupported unsupported)

/-- Settles O24: the function byte is one of the five exactly when the codec supports it. -/
theorem encBuildsTheRequestFrame : Obligations.EncBuildsTheRequestFrame := by
  intro h0 h1 h2 h3 h4 h5 s c
  rw [mem_supported_iff_isFc, Bool.not_eq_true]
  exact ⟨fun supported => exec_enc_of_supported supported h0 h2 h3 h4 h5 s,
    fun unsupported => exec_enc_of_unsupported unsupported h0 h2 h3 h4 h5 s⟩

theorem exec_encRaw (h0 h1 h2 h3 h4 h5 : Byte) (s : State) :
    exec (.encRaw h0 h1 h2 h3 h4 h5) s = exec (.enc [h0, h1, h2, h3, h4, h5]) s := rfl

/-- Settles O26: `ENC.RAW` means what `ENC` of its bytes means. -/
theorem rawRequestIsRefusedOrEncoded : Obligations.RawRequestIsRefusedOrEncoded := by
  intro h0 h1 h2 h3 h4 h5 s
  rw [exec_encRaw]
  exact (encBuildsTheRequestFrame h0 h1 h2 h3 h4 h5 s).symm

/-- A form of `ENC` with a supported function byte builds the frame of its operands. -/
theorem EncForm.exec_eq_built {slave function : Byte} {a v : Word} {i : Instr}
    (form : EncForm (headerBytes slave function a v) i) (supported : isFc function = true) (s : State) :
    exec i s = .next (builtState slave function (hi8 a) (lo8 a) (hi8 v) (lo8 v) s) :=
  (form.exec_eq s).trans (exec_enc_of_supported supported slave (hi8 a) (lo8 a) (hi8 v) (lo8 v) s)

/-- Settles O25: each of the five is the form of `ENC` with its own function byte. -/
theorem fiveRequestsComplete : Obligations.FiveRequestsComplete := by
  intro slave a v s built
  have rdc := EncForm.rdc slave a v
  have rdi := EncForm.rdi slave a v
  have rdh := EncForm.rdh slave a v
  have wrb := EncForm.wrb slave a v
  have wrr := EncForm.wrr slave a v
  exact ⟨rdc.exec_eq_built rfl s, rdi.exec_eq_built rfl s, rdh.exec_eq_built rfl s, wrb.exec_eq_built rfl s,
    wrr.exec_eq_built rfl s, rdc.encode_eq, rdi.encode_eq, rdh.encode_eq, wrb.encode_eq, wrr.encode_eq,
    rfl, rfl, rfl, rfl, rfl⟩

/-! ### Built frames (R117) -/

/-- A header with which `ENC` once succeeds is built in every state. -/
theorem exec_enc_built_of_ok {h : List Byte} {s t : State} (h6 : h.length = 6) (run : exec (.enc h) s = .next t)
    (ok : t.status = 0#4) :
    ∃ a b c d e f, h = [a, b, c, d, e, f] ∧ ∀ u, exec (.enc h) u = .next (builtState a b c d e f u) := by
  obtain ⟨a, b, c, d, e, f, rfl⟩ := exists_six_of_length h6
  cases hb : isFc b
  · obtain rfl := next_injective ((exec_enc_of_unsupported hb a c d e f s).symm.trans run)
    exact absurd ok (by simp)
  · exact ⟨a, b, c, d, e, f, rfl, exec_enc_of_supported hb a c d e f⟩

/-- The first six bytes of a built frame are the header (R117 a). -/
theorem take_frameBytes_of_enc_ok {h : List Byte} {s t : State} (h6 : h.length = 6)
    (run : exec (.enc h) s = .next t) (ok : t.status = 0#4) : (frameBytes t.txbuf).take 6 = h := by
  obtain ⟨a, b, c, d, e, f, rfl, built⟩ := exec_enc_built_of_ok h6 run ok
  obtain rfl := next_injective ((built s).symm.trans run)
  rfl

/-- Settles O27: the frame is the header with its CRC and stands in a `TXBUF` that holds a value; two frames with
the same first six bytes have the same header. -/
theorem builtFramesAreSound : Obligations.BuiltFramesAreSound := by
  refine ⟨fun h s t h6 run ok => ⟨take_frameBytes_of_enc_ok h6 run ok, ?_⟩,
    fun h h' s t s' t' h6 h6' run ok run' ok' same => ?_⟩
  · obtain ⟨a, b, c, d, e, f, rfl, built⟩ := exec_enc_built_of_ok h6 run ok
    obtain rfl := next_injective ((built s).symm.trans run)
    have same_frame (s' t' : State) (run' : exec (.enc [a, b, c, d, e, f]) s' = .next t') :
        t'.txbuf = requestFrame a b c d e f :=
      congrArg State.txbuf (next_injective (run'.symm.trans (built s')))
    exact ⟨crcOk_withCrc [a, b, c, d, e, f], singleBitSensitivity [a, b, c, d, e, f], be16_hi8_lo8 _, same_frame,
      hostRead_txbuf_of_held rfl, rfl⟩
  · exact (take_frameBytes_of_enc_ok h6 run ok).symm.trans (same.trans (take_frameBytes_of_enc_ok h6' run' ok'))

end Sys2Proof.Machine
end

section
/-! PROOF. The response decoder (42_decode.md): `DEC` of a pending request is one of the two paths, each path decides by length, CRC and, for a write, echo; a read response with its CRC is delivered, an accepted write response is the request with its CRC; from these follow the corner cases, the round trip of registers and `WRITE_BIT`. -/

namespace Sys2Proof.Machine

/-! ### `DEC` takes a path (R130) -/

theorem mem_readFunctions_iff_isReadFc (x : Byte) : x ∈ [0x01#8, 0x02#8, 0x03#8] ↔ isReadFc x = true := by
  simp [isReadFc, or_assoc]

theorem isReadFc_of_isWriteFc {x : Byte} (h : isWriteFc x = true) : isReadFc x = false := by
  obtain rfl | rfl : x = 0x05#8 ∨ x = 0x06#8 := by simpa [isWriteFc] using h
  · rfl
  · rfl

theorem exec_dec_of_no_request {s : State} (h : s.txvalid = false) (rx : List Byte) :
    exec (.dec rx) s = .next { s with status := 6#4 } :=
  congrArg Host.Outcome.next (decodeResponse_of_no_request h)

theorem exec_dec_of_read {s : State} (h : s.txvalid = true) (hf : isReadFc s.txbuf.function = true) (rx : List Byte) :
    exec (.dec rx) s = .next (readPath rx { s with txvalid := false }) :=
  congrArg Host.Outcome.next (decodeResponse_of_read h hf)

theorem exec_dec_of_write {s : State} (h : s.txvalid = true) (hf : isReadFc s.txbuf.function = false)
    (rx : List Byte) : exec (.dec rx) s = .next (writePath rx { s with txvalid := false }) :=
  congrArg Host.Outcome.next (decodeResponse_of_write h hf)

/-- Settles O28: the function byte chooses the path, and no path sets the request pending again. -/
theorem decNeedsAndConsumesTheRequest : Obligations.DecNeedsAndConsumesTheRequest := by
  intro rx s
  rw [mem_readFunctions_iff_isReadFc, Bool.not_eq_true]
  have consumed := decodeResponse_txvalid rx s
  exact ⟨fun h => exec_dec_of_no_request h rx, fun h hf => exec_dec_of_read h hf rx,
    fun h hf => exec_dec_of_write h hf rx, fun _ => ⟨_, rfl, consumed, exec_dec_of_no_request consumed⟩⟩

/-! ### The read path, outcome by outcome (R131) -/

section
variable {rx : List Byte} (s : State)

theorem readPath_of_empty (empty : rx.length = 0) : readPath rx s = { s with dlen := 0#8, status := 1#4 } :=
  if_pos empty

theorem readPath_of_wrong_length (nonempty : rx.length ≠ 0)
    (wrong : rx.length < 5 ∨ rx.length ≠ 5 + (byteCount rx).toNat) :
    readPath rx s = { s with dlen := 0#8, status := 3#4 } := by
  obtain ⟨empty, -⟩ | ⟨-, -, h⟩ | ⟨whole, -⟩ | ⟨whole, -⟩ := readPath_cases rx s
  · exact absurd empty nonempty
  · exact h
  · omega
  · omega

theorem readPath_of_wrong_crc (whole : rx.length = 5 + (byteCount rx).toNat)
    (differ : crc16 (crcCovered rx) ≠ receivedCrc rx) :
    readPath rx s = { s with crc := crc16 (crcCovered rx), dlen := 0#8, status := 2#4 } := by
  obtain ⟨empty, -⟩ | ⟨-, wrong, -⟩ | ⟨-, -, h⟩ | ⟨-, equal, -⟩ := readPath_cases rx s
  · omega
  · omega
  · exact h
  · exact absurd equal differ

theorem readPath_of_accepted (whole : rx.length = 5 + (byteCount rx).toNat)
    (equal : crc16 (crcCovered rx) = receivedCrc rx) :
    readPath rx s = { s with
      crc := crc16 (crcCovered rx), data := payload rx ++ s.data.drop (payload rx).length,
      dlen := byteCount rx, status := 0#4 } := by
  obtain ⟨empty, -⟩ | ⟨-, wrong, -⟩ | ⟨-, differ, -⟩ | ⟨-, -, h⟩ := readPath_cases rx s
  · omega
  · omega
  · exact absurd equal differ
  · exact h

end

theorem byteCount_toNat_le (rx : List Byte) : (byteCount rx).toNat ≤ 255 := Nat.le_of_lt_succ (byteCount rx).isLt

theorem payload_getElem? {rx : List Byte} {k : Nat} (hk : k < (byteCount rx).toNat) :
    (payload rx)[k]? = rx[3 + k]? := by
  rw [payload, List.getElem?_take_of_lt hk, List.getElem?_drop]

/-- Delivered data: the response's bytes below `byte_count`, the old ones from there on. -/
theorem delivered_getElem? {rx : List Byte} (whole : rx.length = 5 + (byteCount rx).toNat) (s : State) :
    (∀ k, k < (byteCount rx).toNat → (payload rx ++ s.data.drop (payload rx).length)[k]? = rx[3 + k]?) ∧
    ∀ k, (byteCount rx).toNat ≤ k → (payload rx ++ s.data.drop (payload rx).length)[k]? = s.data[k]? := by
  have size := payload_length whole
  exact ⟨fun k hk => (writeData_stored (payload rx) s (size ▸ hk)).trans (payload_getElem? hk),
    fun k hk => writeData_other (payload rx) s (size ▸ hk)⟩

/-- Settles O29: the length decides first, then the CRC. -/
theorem readPathOutcomes : Obligations.ReadPathOutcomes := by
  intro s rx hv hf L n c received
  rw [exec_dec_of_read hv ((mem_readFunctions_iff_isReadFc _).mp hf)]
  refine ⟨fun empty => ?_, fun nonempty short => ?_, fun long wrong => ?_, fun whole differ => ?_,
    fun whole equal => ⟨_, ?_, delivered_getElem? whole s⟩⟩
  · rw [readPath_of_empty _ empty]
  · rw [readPath_of_wrong_length _ (Nat.ne_zero_of_lt nonempty) (.inl (Nat.lt_succ_of_le short))]
  · rw [readPath_of_wrong_length _ (Nat.ne_zero_of_lt long) (.inr wrong)]
  · rw [readPath_of_wrong_crc _ whole differ]
    rfl
  · have count : byteCount rx = BitVec.ofNat 8 n := (BitVec.ofNat_toNat 8 (byteCount rx)).symm
    rw [readPath_of_accepted _ whole equal, count]
    rfl

/-! ### The write path, outcome by outcome (R132) -/

section
variable {rx : List Byte} (s : State)

theorem writePath_of_empty (empty : rx.length = 0) : writePath rx s = { s with dlen := 0#8, status := 1#4 } :=
  if_pos empty

theorem writePath_of_wrong_length (nonempty : rx.length ≠ 0) (wrong : rx.length ≠ 8) :
    writePath rx s = { s with dlen := 0#8, status := 3#4 } :=
  (if_neg nonempty).trans (if_pos wrong)

/-- At eight bytes the CRC is computed over the first six; then it and the echo decide. -/
theorem writePath_of_length_eight (eight : rx.length = 8) :
    writePath rx s =
      if crc16 (rx.take 6) = be16 (byteAt rx 7) (byteAt rx 6) then
        if rx.take 6 = frameHeader s.txbuf then { s with crc := crc16 (rx.take 6), dlen := 0#8, status := 0#4 }
        else { s with crc := crc16 (rx.take 6), dlen := 0#8, status := 4#4 }
      else { s with crc := crc16 (rx.take 6), dlen := 0#8, status := 2#4 } := by
  have nonempty : rx.length ≠ 0 := by omega
  rw [writePath, if_neg nonempty, if_neg (not_not.mpr (show rx.length = Config.wrRspLen from eight)), crcCovered,
    receivedCrc, eight]
  rfl

end

/-- Settles O30: the length decides first, then the CRC, then the echo. -/
theorem writePathOutcomes : Obligations.WritePathOutcomes := by
  intro s rx hv hf L c received echoed
  have write : isWriteFc s.txbuf.function = true := by simpa [isWriteFc] using hf
  rw [exec_dec_of_write hv (isReadFc_of_isWriteFc write)]
  refine ⟨fun empty => ?_, fun nonempty wrong => ?_, fun eight differ => ?_, fun eight equal other => ?_,
    fun eight equal same => ?_⟩
  · rw [writePath_of_empty _ empty]
  · rw [writePath_of_wrong_length _ nonempty wrong]
  · exact congrArg _ ((writePath_of_length_eight _ eight).trans (if_neg differ))
  · exact congrArg _ ((writePath_of_length_eight _ eight).trans ((if_pos equal).trans (if_neg other)))
  · exact congrArg _ ((writePath_of_length_eight _ eight).trans ((if_pos equal).trans (if_pos same)))

/-! ### The effects by outcome (R133) -/

/-- Settles O31: `DEC` is refused or takes a path, and every way through a path is a row of the table. -/
theorem decEffectsByOutcome : Obligations.DecEffectsByOutcome := by
  intro rx s t h c
  obtain rfl : decodeResponse rx s = t := next_injective h
  obtain ⟨hv, h⟩ | ⟨hv, hf, h⟩ | ⟨hv, hf, h⟩ := decodeResponse_cases rx s <;> rw [h]
  · exact .inl ⟨hv, rfl⟩
  · obtain ⟨-, h⟩ | ⟨-, -, h⟩ | ⟨-, -, h⟩ | ⟨whole, -, h⟩ := readPath_cases rx (writeTxvalid false s) <;> rw [h]
    · exact .inr (.inl ⟨hv, rfl⟩)
    · exact .inr (.inr (.inl ⟨hv, rfl⟩))
    · exact .inr (.inr (.inr (.inl ⟨hv, rfl⟩)))
    · exact .inr (.inr (.inr (.inr (.inr (.inl ⟨hv, hf, rfl, delivered_getElem? whole s⟩)))))
  · obtain ⟨-, h⟩ | ⟨-, -, h⟩ | ⟨-, -, h⟩ | ⟨-, -, -, h⟩ | ⟨-, -, -, h⟩ :=
      writePath_cases rx (writeTxvalid false s) <;> rw [h]
    · exact .inr (.inl ⟨hv, rfl⟩)
    · exact .inr (.inr (.inl ⟨hv, rfl⟩))
    · exact .inr (.inr (.inr (.inl ⟨hv, rfl⟩)))
    · exact .inr (.inr (.inr (.inr (.inl ⟨hv, hf, rfl⟩))))
    · exact .inr (.inr (.inr (.inr (.inr (.inr ⟨hv, hf, rfl⟩)))))

/-! ### Well-formed read responses (R135) -/

theorem byteCount_readResponse (slave function : Byte) {d : List Byte} (size : d.length ≤ 255) :
    (byteCount (readResponse slave function d)).toNat = d.length :=
  Nat.mod_eq_of_lt (Nat.lt_succ_of_le size)

theorem length_readResponse (slave function : Byte) (d : List Byte) :
    (readResponse slave function d).length = 5 + d.length := by
  simp [readResponse, length_withCrc]
  omega

theorem payload_readResponse (slave function : Byte) {d : List Byte} (size : d.length ≤ 255) :
    payload (readResponse slave function d) = d := by
  rw [payload, byteCount_readResponse slave function size]
  exact List.take_left

theorem exec_dec_readResponse {s : State} (hv : s.txvalid = true) (hf : isReadFc s.txbuf.function = true)
    (slave function : Byte) {d : List Byte} (size : d.length ≤ 255) :
    exec (.dec (readResponse slave function d)) s = .next { s with
      txvalid := false, crc := crc16 ([slave, function, BitVec.ofNat 8 d.length] ++ d),
      data := d ++ s.data.drop d.length, dlen := BitVec.ofNat 8 d.length, status := 0#4 } := by
  have whole : (readResponse slave function d).length = 5 + (byteCount (readResponse slave function d)).toNat := by
    rw [byteCount_readResponse slave function size, length_readResponse]
  have ok : crcOk (readResponse slave function d) = true := crcOk_withCrc _
  have covered : crcCovered (readResponse slave function d) = [slave, function, BitVec.ofNat 8 d.length] ++ d :=
    crcCovered_append_pair _ _ _
  rw [exec_dec_of_read hv hf, readPath_of_accepted _ whole (beq_iff_eq.mp ok),
    payload_readResponse slave function size, covered]
  rfl

/-- Settles O33. -/
theorem readPathChecksOnlyLengthAndCrc : Obligations.ReadPathChecksOnlyLengthAndCrc :=
  fun _ slave function _ hv hf size => exec_dec_readResponse hv hf slave function size

/-! ### The accepted lengths (R134) -/

theorem readPath_status_eq_zero_iff (rx : List Byte) (s : State) : (readPath rx s).status = 0#4 ↔
    rx.length = 5 + (byteCount rx).toNat ∧ crc16 (crcCovered rx) = receivedCrc rx := by
  refine ⟨fun ok => ?_, fun ⟨whole, equal⟩ => by rw [readPath_of_accepted s whole equal]⟩
  obtain ⟨-, h⟩ | ⟨-, -, h⟩ | ⟨-, -, h⟩ | ⟨whole, equal, -⟩ := readPath_cases rx s
  · simp [h] at ok
  · simp [h] at ok
  · simp [h] at ok
  · exact ⟨whole, equal⟩

theorem readPath_status_eq_three_iff (rx : List Byte) (s : State) : (readPath rx s).status = 3#4 ↔
    rx.length ≠ 0 ∧ (rx.length < 5 ∨ rx.length ≠ 5 + (byteCount rx).toNat) := by
  refine ⟨fun short => ?_, fun ⟨nonempty, wrong⟩ => by rw [readPath_of_wrong_length s nonempty wrong]⟩
  obtain ⟨-, h⟩ | ⟨nonempty, wrong, -⟩ | ⟨-, -, h⟩ | ⟨-, -, h⟩ := readPath_cases rx s
  · simp [h] at short
  · exact ⟨nonempty, wrong⟩
  · simp [h] at short
  · simp [h] at short

/-- Settles O32: `byte_count` is at most 255, and a response of any number of data bytes up to it is accepted. -/
theorem acceptedReadLengths : Obligations.AcceptedReadLengths := by
  intro s hv hf
  refine ⟨fun t rx h => ?_, fun L low high => ?_⟩
  · obtain rfl := next_injective ((exec_dec_of_read hv hf rx).symm.trans h)
    have count := byteCount_toNat_le rx
    rw [readPath_status_eq_zero_iff, readPath_status_eq_three_iff]
    exact ⟨fun ⟨whole, _⟩ => ⟨whole, by omega, by omega⟩, and_congr_left' (not_congr List.length_eq_zero_iff),
      fun long => ⟨by omega, .inr (by omega)⟩⟩
  · obtain ⟨d, size⟩ : ∃ d : List Byte, d.length = L - 5 := ⟨List.replicate (L - 5) 0x00#8, List.length_replicate⟩
    refine ⟨readResponse 0x00#8 0x00#8 d, _, ?_, exec_dec_readResponse hv hf _ _ (by omega), rfl⟩
    rw [length_readResponse]
    omega

/-! ### An accepted write response is the request (R136) -/

theorem writePath_of_echo (s : State) : writePath (withCrc (frameHeader s.txbuf)) s =
    { s with crc := crc16 (frameHeader s.txbuf), dlen := 0#8, status := 0#4 } := by
  have eight : (withCrc (frameHeader s.txbuf)).length = 8 := rfl
  have equal := (be16_hi8_lo8 (crc16 (frameHeader s.txbuf))).symm
  exact (writePath_of_length_eight s eight).trans ((if_pos equal).trans (if_pos rfl))

/-- The write path accepts the request's header with its CRC and nothing else. -/
theorem writePath_status_eq_zero_iff (rx : List Byte) (s : State) :
    (writePath rx s).status = 0#4 ↔ rx = withCrc (frameHeader s.txbuf) := by
  constructor
  · intro ok
    obtain ⟨-, h⟩ | ⟨-, -, h⟩ | ⟨-, -, h⟩ | ⟨-, -, -, h⟩ | ⟨eight, equal, echoed, -⟩ := writePath_cases rx s
    · simp [h] at ok
    · simp [h] at ok
    · simp [h] at ok
    · simp [h] at ok
    · have covered : crcCovered rx = frameHeader s.txbuf := by rw [crcCovered, eight, ← echoed]
      rw [← covered]
      exact eq_withCrc_of_crcOk (by omega) (beq_iff_eq.mpr equal)
  · rintro rfl
    rw [writePath_of_echo]

/-- A built frame is its header with its CRC. -/
theorem State.Inv.frameBytes_eq_withCrc {s : State} (hs : s.Inv) (held : s.txbufHeld = true) :
    frameBytes s.txbuf = withCrc (frameHeader s.txbuf) :=
  eq_withCrc_of_crcOk (show 2 ≤ 8 by decide) (hs.frame_crc held)

/-- Settles O34: what is accepted is the request's header with its CRC, and so is the built frame. -/
theorem acceptedWriteResponseIsTheRequest : Obligations.AcceptedWriteResponseIsTheRequest := by
  intro s rx hs hv hw
  have held := hs.pending_held hv
  have bytes := hs.frameBytes_eq_withCrc held
  have path := exec_dec_of_write hv (isReadFc_of_isWriteFc hw)
  refine ⟨fun t h ok => ?_, ?_⟩
  · obtain rfl := next_injective ((path rx).symm.trans h)
    exact ((writePath_status_eq_zero_iff rx _).mp ok).trans bytes.symm
  · have crc : crc16 (frameHeader s.txbuf) = be16 s.txbuf.crcHi s.txbuf.crcLo := beq_iff_eq.mp (hs.frame_crc held)
    rw [path, bytes, ← crc]
    exact congrArg _ (writePath_of_echo { s with txvalid := false })

/-! ### Exception responses (R137) -/

theorem isFc_of_isReadFc {x : Byte} (h : isReadFc x = true) : isFc x = true := by simp [isFc, h]

/-- A typed read of some data rejects an accepted response without data (43_typed_access.md R154). -/
theorem exchange_of_empty_response {α : Type} {request : Instr} {asked fc : Byte} {a n : Word}
    (form : EncForm (headerBytes asked fc a n) request) (hf : isReadFc fc = true) (slave function : Byte)
    {expected : Nat} (some_data : expected ≠ 0) (fetch : State → HostOutcome α) (s : State) :
    ∃ t, exchange request (.received (readResponse slave function [])) s (countChecked expected fetch) =
      .next (.error 3#4, t) := by
  have encoded := form.exec_eq_built (isFc_of_isReadFc hf) s
  have decoded := exec_dec_readResponse (s := builtState asked fc (hi8 a) (lo8 a) (hi8 n) (lo8 n) s) rfl hf
    slave function (d := []) (by decide)
  exact ⟨_, (exchange_received encoded decoded _).trans ((if_pos rfl).trans (if_neg some_data.symm))⟩

/-- Settles O35: five bytes are not eight, they are `5 + code` only for code 0, and then they are a read response
without data. -/
theorem exceptionResponses : Obligations.ExceptionResponses := by
  intro s slave function code crcLo crcHi hv
  refine ⟨fun hf => ?_, fun hf nonzero => ?_, ?_⟩
  · exact (exec_dec_of_write hv hf _).trans (congrArg _ (writePath_of_wrong_length _ (by simp) (by simp)))
  · have count : (byteCount [slave, function, code, crcLo, crcHi]).toNat ≠ 0 := fun h =>
      nonzero (BitVec.eq_of_toNat_eq h)
    exact (exec_dec_of_read hv hf _).trans
      (congrArg _ (readPath_of_wrong_length _ (by simp) (.inr (by simpa using count))))
  · rintro hf rfl crc
    have response : [slave, function, 0x00#8, crcLo, crcHi] = readResponse slave function [] := by
      simp [readResponse, withCrc, crc]
    rw [response]
    refine ⟨?_, fun asked a n nonzero => ?_⟩
    · rw [← crc]
      exact exec_dec_readResponse hv hf slave function (by decide)
    · have counted : n.toNat ≠ 0 := fun h => nonzero (BitVec.eq_of_toNat_eq h)
      refine ⟨exchange_of_empty_response (.rdh asked a _) rfl slave function (by decide) _ s,
        exchange_of_empty_response (.rdh asked a n) rfl slave function ?_ _ s, ?_⟩
      · rw [registerBytes]
        omega
      · have bits : bitBytes n ≠ 0 := by rw [bitBytes]; omega
        rintro fc (rfl | rfl)
        · exact exchange_of_empty_response (.rdc asked a n) rfl slave function bits _ s
        · exact exchange_of_empty_response (.rdi asked a n) rfl slave function bits _ s

/-! ### Corner cases (R138) -/

/-- Settles O36: (a) and (b) are well-formed responses, (c) is read off the table of effects, and (d) the echoed request
has a `byte_count` of 0 in eight bytes. -/
theorem readPathCornerCases : Obligations.ReadPathCornerCases := by
  refine ⟨fun s slave function hv hf => exec_dec_readResponse hv hf slave function (by decide),
    fun s slave function d hv hf size => ?_, fun s t rx hv h => ?_, fun s t h => ?_⟩
  · refine ⟨_, exec_dec_readResponse hv hf slave function (Nat.le_of_eq size), rfl, ?_, ?_⟩
    · rw [size]
    · exact size ▸ List.take_left
  · obtain ⟨no_request, -⟩ | ⟨-, rfl⟩ | ⟨-, rfl⟩ | ⟨-, rfl⟩ | ⟨-, -, rfl⟩ | ⟨-, -, ht, below, -⟩ | ⟨-, -, rfl⟩ :=
      decEffectsByOutcome rx s t h
    · simp [no_request] at hv
    · exact .inl rfl
    · exact .inl rfl
    · exact .inl rfl
    · exact .inl rfl
    · exact .inr ⟨congrArg State.status ht, below⟩
    · exact .inl rfl
  · obtain rfl := next_injective (((EncForm.rdh 0x01#8 0x0000#16 0x0001#16).exec_eq_built rfl s).symm.trans h)
    have nonempty : (8 : Nat) ≠ 0 := by decide
    have wrong : (8 : Nat) ≠ 5 + (0x00#8).toNat := by decide
    exact (exec_dec_of_read rfl rfl _).trans (congrArg _ (readPath_of_wrong_length _ nonempty (.inr wrong)))

/-! ### The round trip of registers (R139) -/

theorem length_registerData (r : List Word) : (registerData r).length = 2 * r.length := by
  simp [registerData, Nat.mul_comm]

/-- The bytes of register `i` stand at `2 * i` and `2 * i + 1`, the high one first. -/
theorem byteAt_registerData {r : List Word} {i : Nat} {v : Word} (h : r[i]? = some v) (rest : List Byte) :
    byteAt (registerData r ++ rest) (2 * i) = hi8 v ∧ byteAt (registerData r ++ rest) (2 * i + 1) = lo8 v := by
  induction r generalizing i with
  | nil => simp at h
  | cons w r ih =>
    cases i with
    | zero =>
      obtain rfl : w = v := by simpa using h
      exact ⟨rfl, rfl⟩
    | succ i => exact ih (by simpa using h)

/-- `GET.REG i` fetches register `i` of the delivered ones. -/
theorem exec_getReg_of_registerData {u : State} {r : List Word} {rest : List Byte}
    (data : u.data = registerData r ++ rest) (dlen : u.dlen.toNat = 2 * r.length) {i : Nat} {v : Word}
    (h : r[i]? = some v) :
    exec (.getReg [BitVec.ofNat 8 i]) u = .next { u with res := v, resHeld := true, status := 0#4 } := by
  obtain ⟨below, -⟩ := List.getElem?_eq_some_iff.mp h
  have size := dlen_toNat_le u
  have index : (BitVec.ofNat 8 i).toNat = i := Nat.mod_eq_of_lt (by omega)
  have value : dataRegister u i = v := by
    obtain ⟨high, low⟩ := byteAt_registerData h rest
    rw [dataRegister, dataByte, dataByte, data, high, low, be16_hi8_lo8]
  obtain ⟨-, fetched⟩ | ⟨above, -⟩ := fetchRegister_cases i u
  · rw [value, ← index] at fetched
    exact congrArg _ fetched
  · omega

/-- Settles O37: the delivered bytes are those of the registers, at most 254. -/
theorem readRegistersRoundTrip : Obligations.ReadRegistersRoundTrip := by
  intro st s a r _ few
  have bytes := length_registerData r
  have dlen : (BitVec.ofNat 8 (registerData r).length).toNat = 2 * r.length := by
    rw [bytes]
    exact Nat.mod_eq_of_lt (by omega)
  exact ⟨_, _, (EncForm.rdh s a (BitVec.ofNat 16 r.length)).exec_eq_built rfl st, rfl,
    exec_dec_readResponse rfl rfl s 0x03#8 (by omega), rfl, dlen,
    fun _ _ h => exec_getReg_of_registerData rfl dlen h⟩

/-! ### `WRITE_BIT` (43_typed_access.md R159) -/

theorem writePath_status (rx : List Byte) (s : State) : (writePath rx s).status =
    if rx.length = 0 then 1#4
    else if rx.length ≠ 8 then 3#4
    else if crc16 (rx.take 6) ≠ be16 (byteAt rx 7) (byteAt rx 6) then 2#4
    else if rx.take 6 ≠ frameHeader s.txbuf then 4#4
    else 0#4 := by
  split_ifs with empty wrong differ other
  · rw [writePath_of_empty s empty]
  · rw [writePath_of_wrong_length s empty wrong]
  · rw [writePath_of_length_eight s (not_not.mp wrong), if_neg differ]
  · rw [writePath_of_length_eight s (not_not.mp wrong), if_pos (not_not.mp differ), if_neg other]
  · rw [writePath_of_length_eight s (not_not.mp wrong), if_pos (not_not.mp differ), if_pos (not_not.mp other)]

/-- What a typed write makes of `STATUS`: `ack` or the error. -/
def ackResult (code : BitVec 4) : Result Unit := if code = 0#4 then .value () else .error code

theorem ackResult_eq_value_iff (code : BitVec 4) : ackResult code = .value () ↔ code = 0#4 := by
  unfold ackResult
  split_ifs with ok <;> simp [ok]

section
variable {request : Instr} {s t : State} (encoded : exec request s = .next t) (hv : t.txvalid = true)
  (hf : isReadFc t.txbuf.function = false) (rx : List Byte)
include encoded hv hf

/-- A write request, its transfer and the decoding of what came back. -/
theorem exchange_write : exchange request (.received rx) s (fun u => .next (.value (), u)) =
    .next (ackResult (writePath rx { t with txvalid := false }).status,
      writePath rx { t with txvalid := false }) := by
  rw [exchange_received encoded (exec_dec_of_write hv hf rx), ackResult]
  split_ifs <;> rfl

theorem runInstrs_write : runInstrs [request, .dec rx] s = .next (writePath rx { t with txvalid := false }) := by
  rw [runInstrs_cons, encoded, andThen_next, runInstrs_cons, exec_dec_of_write hv hf, andThen_next, runInstrs_nil]

/-- A typed write ends with the error of the first failing check of the write path, otherwise with `ack`. -/
theorem exchange_write_result :
    ∃ u, exchange request (.received rx) s (fun u => .next (.value (), u)) = .next
      ((if rx.length = 0 then .error 1#4
        else if rx.length ≠ 8 then .error 3#4
        else if crc16 (rx.take 6) ≠ be16 (byteAt rx 7) (byteAt rx 6) then .error 2#4
        else if rx.take 6 ≠ frameHeader t.txbuf then .error 4#4
        else .value ()), u) ∧
      runInstrs [request, .dec rx] s = .next u := by
  refine ⟨_, ?_, runInstrs_write encoded hv hf rx⟩
  rw [exchange_write encoded hv hf, writePath_status]
  simp only [apply_ite ackResult]
  rfl

/-- A typed write ends with `ack` exactly for the request's header with its CRC. -/
theorem exchange_write_ack_iff :
    (∃ u, exchange request (.received rx) s (fun u => .next (.value (), u)) = .next (.value (), u)) ↔
      rx = withCrc (frameHeader t.txbuf) := by
  have accepted := writePath_status_eq_zero_iff rx { t with txvalid := false }
  simp [exchange_write encoded hv hf, ackResult_eq_value_iff, accepted]

end

/-- Settles O44: the request is the header with the word of the bit; the write path decides, and accepts the echo
alone. -/
theorem writeBitResult : Obligations.WriteBitResult := by
  intro s a state rx st L header
  have encoded := (EncForm.wrb s a (if state then 0xFF00#16 else 0x0000#16)).exec_eq_built rfl st
  have word : header = headerBytes s 0x05#8 a (if state then 0xFF00#16 else 0x0000#16) := by cases state <;> rfl
  rw [word]
  exact ⟨exchange_write_result encoded rfl rfl rx, exchange_write_ack_iff encoded rfl rfl rx⟩

end Sys2Proof.Machine
end

section
/-! PROOF. Typed access (43_typed_access.md): the two `GET`s decide by `DLEN`; after an accepted response `DATA` holds its bytes, and a loop of `GET`s leaves that as it is, so it collects the response's registers or bits; from these one law gives the result of every typed read. -/

namespace Sys2Proof.Machine

/-! ### `GET.REG` and `GET.BIT` (R150, R151) -/

theorem exec_getReg_of_lt {i : Byte} {s : State} (below : 2 * i.toNat + 1 < s.dlen.toNat) :
    exec (.getReg [i]) s = .next { s with res := dataRegister s i.toNat, resHeld := true, status := 0#4 } :=
  congrArg Host.Outcome.next (if_neg (Nat.not_le.mpr below))

theorem exec_getReg_of_le {i : Byte} {s : State} (above : s.dlen.toNat ≤ 2 * i.toNat + 1) :
    exec (.getReg [i]) s = .next { s with status := 8#4 } :=
  congrArg Host.Outcome.next (if_pos above)

theorem exec_asmGetBit (i : Word) (s : State) : exec (asmGetBit i) s = .next (fetchBit i.toNat s) := by
  rw [← be16_hi8_lo8 i, asmGetBit, hi8_be16, lo8_be16]
  rfl

theorem exec_asmGetBit_of_lt {i : Word} {s : State} (below : i.toNat / 8 < s.dlen.toNat) :
    exec (asmGetBit i) s = .next { s with res := bitWord (dataBit s i.toNat), resHeld := true, status := 0#4 } :=
  (exec_asmGetBit i s).trans (congrArg Host.Outcome.next (if_neg (Nat.not_le.mpr below)))

theorem exec_asmGetBit_of_le {i : Word} {s : State} (above : s.dlen.toNat ≤ i.toNat / 8) :
    exec (asmGetBit i) s = .next { s with status := 8#4 } :=
  (exec_asmGetBit i s).trans (congrArg Host.Outcome.next (if_pos above))

/-- Settles O38: `DLEN` is at most 255, so the last whole register is number 126. -/
theorem getRegFetchesARegister : Obligations.GetRegFetchesARegister := by
  refine ⟨fun i s => ⟨exec_getReg_of_lt, exec_getReg_of_le, fun t run ok => ?_⟩, fun _ s h =>
    exec_getReg_of_length_ne h s⟩
  have size := dlen_toNat_le s
  by_cases below : 2 * i.toNat + 1 < s.dlen.toNat
  · omega
  · obtain rfl := next_injective ((exec_getReg_of_le (Nat.not_lt.mp below)).symm.trans run)
    exact absurd ok (by simp)

/-- Settles O39: `DLEN` is at most 255, so the last bit is number 2039. -/
theorem getBitFetchesABit : Obligations.GetBitFetchesABit := by
  refine ⟨fun i s => ⟨exec_asmGetBit_of_lt, exec_asmGetBit_of_le, fun t run ok => ?_⟩, fun _ s h =>
    exec_getBit_of_length_ne h s⟩
  have size := dlen_toNat_le s
  by_cases below : i.toNat / 8 < s.dlen.toNat
  · omega
  · obtain rfl := next_injective ((exec_asmGetBit_of_le (Nat.not_lt.mp below)).symm.trans run)
    exact absurd ok (by simp)

/-! ### `WRITE_REGISTER` (R157) -/

/-- Settles O42: the write path decides, and accepts the echo alone. -/
theorem writeRegisterResult : Obligations.WriteRegisterResult := by
  intro s a v rx st L header
  have encoded := (EncForm.wrr s a v).exec_eq_built rfl st
  exact ⟨exchange_write_result encoded rfl rfl rx, exchange_write_ack_iff encoded rfl rfl rx⟩

/-! ### Fetching from delivered data (R155, R156, R158) -/

/-- `DATA` holds the `n` data bytes of the response `rx`, and no more of it is valid. -/
structure Delivered (rx : List Byte) (n : Nat) (u : State) : Prop where
  dlen : u.dlen.toNat = n
  bytes : ∀ k < n, dataByte u k = byteAt rx (3 + k)

/-- Register `i` of a read response (20_memory.md R45). -/
def responseRegister (rx : List Byte) (i : Nat) : Word := be16 (byteAt rx (3 + 2 * i)) (byteAt rx (3 + 2 * i + 1))

/-- Bit `i` of a read response (20_memory.md R46). -/
def responseBit (rx : List Byte) (i : Nat) : Bool := (byteAt rx (3 + i / 8)).getLsbD (i % 8)

section
variable {rx : List Byte} {n : Nat} {u : State} (held : Delivered rx n u)
include held

/-- A fetch leaves `DATA` and `DLEN` alone. -/
theorem Delivered.after_fetch (v : Word) : Delivered rx n { u with res := v, resHeld := true, status := 0#4 } :=
  ⟨held.dlen, held.bytes⟩

theorem Delivered.exec_getReg {i : Nat} (below : 2 * i + 1 < n) : exec (asmGetReg (BitVec.ofNat 8 i)) u =
    .next { u with res := responseRegister rx i, resHeld := true, status := 0#4 } := by
  have dlen := held.dlen
  have size := dlen_toNat_le u
  have index : (BitVec.ofNat 8 i).toNat = i := Nat.mod_eq_of_lt (by omega)
  have value : dataRegister u i = responseRegister rx i := by
    rw [dataRegister, held.bytes _ (by omega), held.bytes _ below]
    rfl
  rw [asmGetReg, exec_getReg_of_lt (by omega), index, value]

theorem Delivered.exec_getBit {i : Nat} (below : i / 8 < n) : exec (asmGetBit (BitVec.ofNat 16 i)) u =
    .next { u with res := bitWord (responseBit rx i), resHeld := true, status := 0#4 } := by
  have dlen := held.dlen
  have size := dlen_toNat_le u
  have index : (BitVec.ofNat 16 i).toNat = i := Nat.mod_eq_of_lt (by omega)
  have value : dataBit u i = responseBit rx i := by
    rw [dataBit, held.bytes _ below]
    rfl
  rw [exec_asmGetBit_of_lt (by omega), index, value]

/-- A loop whose turns each fetch one value from delivered data collects the values of its indices, by the `GET`s of
its indices. -/
theorem Delivered.collect {β : Type} {loop : List Nat → State → HostOutcome (List β)} {get : Nat → Instr}
    {value : Nat → β} {is : List Nat} (loop_nil : ∀ u, loop [] u = .next (.value [], u))
    (turn : ∀ i ∈ is, ∀ u, Delivered rx n u → ∃ u', Delivered rx n u' ∧ exec (get i) u = .next u' ∧
      ∀ js vs w, loop js u' = .next (.value vs, w) → loop (i :: js) u = .next (.value (value i :: vs), w)) :
    ∃ w, loop is u = .next (.value (is.map value), w) ∧ runInstrs (is.map get) u = .next w := by
  induction is generalizing u with
  | nil => exact ⟨u, loop_nil u, rfl⟩
  | cons i is ih =>
    obtain ⟨u', held', got, extend⟩ := turn i List.mem_cons_self u held
    obtain ⟨w, rest, run⟩ := ih held' fun j hj => turn j (List.mem_cons_of_mem i hj)
    exact ⟨w, extend _ _ _ rest, by rw [List.map_cons, runInstrs_cons, got, andThen_next, run]⟩

theorem Delivered.exists_fetchRegisters {is : List Nat} (below : ∀ i ∈ is, 2 * i + 1 < n) :
    ∃ w, fetchRegisters is u = .next (.value (is.map (responseRegister rx)), w) ∧
      runInstrs (is.map fun i => asmGetReg (BitVec.ofNat 8 i)) u = .next w := by
  refine held.collect (fun _ => rfl) fun i hi u held => ⟨_, held.after_fetch _, held.exec_getReg (below i hi), ?_⟩
  intro js vs w rest
  simp only [fetchRegisters, held.exec_getReg (below i hi), andThen_next, rest]

theorem Delivered.exists_fetchBits {is : List Nat} (below : ∀ i ∈ is, i / 8 < n) :
    ∃ w, fetchBits is u = .next (.value (is.map (responseBit rx)), w) ∧
      runInstrs (is.map fun i => asmGetBit (BitVec.ofNat 16 i)) u = .next w := by
  refine held.collect (fun _ => rfl) fun i hi u held => ⟨_, held.after_fetch _, held.exec_getBit (below i hi), ?_⟩
  intro js vs w rest
  have bit : (bitWord (responseBit rx i) == 0x0001#16) = responseBit rx i := by
    cases responseBit rx i <;> rfl
  simp only [fetchBits, held.exec_getBit (below i hi), andThen_next, rest, bit]

end

/-- What the read path accepts is delivered (42_decode.md R131). -/
theorem delivered_of_accepted {rx : List Byte} {s u : State} (whole : rx.length = 5 + (byteCount rx).toNat)
    (data : u.data = payload rx ++ s.data.drop (payload rx).length) (dlen : u.dlen = byteCount rx) :
    Delivered rx (byteCount rx).toNat u where
  dlen := congrArg BitVec.toNat dlen
  bytes k hk := by
    have stored := (delivered_getElem? whole s).1 k hk
    rw [← data] at stored
    simp only [dataByte, byteAt, List.getD_eq_getElem?_getD, stored]

/-! ### The result of a typed read (R154 to R156, R158) -/

/-- What a typed read that expects `expected` data bytes makes of a response: the error of the first check that fails,
otherwise the value. -/
def readResult {α : Type} (expected : Nat) (rx : List Byte) (v : α) : Result α :=
  if rx.length = 0 then .error 1#4
  else if rx.length < 5 ∨ rx.length ≠ 5 + (byteCount rx).toNat then .error 3#4
  else if crc16 (crcCovered rx) ≠ receivedCrc rx then .error 2#4
  else if (byteCount rx).toNat ≠ expected then .error 3#4
  else .value v

/-- The fetches a typed read issues: all of them for a value, none for an error. -/
def issuedFetches {α : Type} (r : Result α) (fetches : List Instr) : List Instr :=
  match r with
  | .value _ => fetches
  | .error _ => []
  | .transportError => []

/-- A value needs the expected number of data bytes, a natural number up to 255. -/
theorem readResult_ne_value {α : Type} {expected : Nat} (many : 255 < expected) (rx : List Byte) (v w : α) :
    readResult expected rx v ≠ .value w := by
  have count : (byteCount rx).toNat ≠ expected := by
    have := byteCount_toNat_le rx
    omega
  unfold readResult
  split_ifs <;> simp

/-- After the checks of the read path only the count decides. -/
theorem readResult_of_accepted {α : Type} {rx : List Byte} (whole : rx.length = 5 + (byteCount rx).toNat)
    (equal : crc16 (crcCovered rx) = receivedCrc rx) (expected : Nat) (v : α) :
    readResult expected rx v = if (byteCount rx).toNat ≠ expected then .error 3#4 else .value v := by
  rw [readResult, if_neg (by omega), if_neg (by omega), if_neg (not_not.mpr equal)]

theorem readResult_readResponse {α : Type} (slave function : Byte) {d : List Byte} (size : d.length ≤ 255) (v : α) :
    readResult d.length (readResponse slave function d) v = .value v := by
  have count := byteCount_readResponse slave function size
  have whole : (readResponse slave function d).length = 5 + (byteCount (readResponse slave function d)).toNat := by
    rw [count, length_readResponse]
  have equal := beq_iff_eq.mp (crcOk_withCrc ([slave, function, BitVec.ofNat 8 d.length] ++ d))
  rw [readResult_of_accepted whole equal, if_neg (not_not.mpr count)]

section
variable {α : Type} {request : Instr} {slave fc : Byte} {a n : Word}
  (form : EncForm (headerBytes slave fc a n) request) (hf : isReadFc fc = true)
include form hf

/-- A typed read gives `readResult`, by the commands it issues, when its fetches from delivered data give the value. -/
theorem exchange_read {expected : Nat} {rx : List Byte} {v : α} {fetch : State → HostOutcome α}
    {fetches : List Instr} (fetched : ∀ u, Delivered rx expected u →
      ∃ w, fetch u = .next (.value v, w) ∧ runInstrs fetches u = .next w) (st : State) :
    ∃ t, exchange request (.received rx) st (countChecked expected fetch) = .next (readResult expected rx v, t) ∧
      runInstrs ([request, .dec rx] ++ issuedFetches (readResult expected rx v) fetches) st = .next t := by
  have encoded := form.exec_eq_built (isFc_of_isReadFc hf) st
  obtain ⟨s, decoded⟩ : ∃ s, exec (.dec rx) (builtState slave fc (hi8 a) (lo8 a) (hi8 n) (lo8 n) st) =
      .next (readPath rx s) := ⟨_, exec_dec_of_read rfl hf rx⟩
  have run is : runInstrs ([request, .dec rx] ++ is) st = runInstrs is (readPath rx s) := by
    simp only [List.cons_append, List.nil_append, runInstrs_cons, encoded, decoded, andThen_next]
  rw [exchange_received encoded decoded, run]
  obtain ⟨empty, path⟩ | ⟨nonempty, wrong, path⟩ | ⟨whole, differ, path⟩ | ⟨whole, equal, path⟩ := readPath_cases rx s
  · have result : readResult expected rx v = .error 1#4 := if_pos empty
    rw [path, result]
    exact ⟨_, if_neg (by simp), rfl⟩
  · have result : readResult expected rx v = .error 3#4 := (if_neg nonempty).trans (if_pos wrong)
    rw [path, result]
    exact ⟨_, if_neg (by simp), rfl⟩
  · have result : readResult expected rx v = .error 2#4 := by
      rw [readResult, if_neg (by omega), if_neg (by omega), if_pos differ]
    rw [path, result]
    exact ⟨_, if_neg (by simp), rfl⟩
  · rw [path, if_pos rfl, readResult_of_accepted whole equal, countChecked]
    by_cases count : (byteCount rx).toNat = expected
    · rw [if_pos count, if_neg (not_not.mpr count)]
      exact fetched _ (count ▸ delivered_of_accepted (s := s) whole rfl rfl)
    · rw [if_neg count, if_pos count]
      exact ⟨_, rfl, rfl⟩

/-- A well-formed response of another size than expected is `ShortFrameError` to the host and success to the codec
(R154). -/
theorem exchange_of_other_size {expected : Nat} (function : Byte) {d : List Byte} (size : d.length ≤ 255)
    (other : d.length ≠ expected) (fetch : State → HostOutcome α) (st : State) :
    ∃ u, exchange request (.received (readResponse slave function d)) st (countChecked expected fetch) =
      .next (.error 3#4, u) ∧ u.status = 0#4 := by
  have encoded := form.exec_eq_built (isFc_of_isReadFc hf) st
  have decoded := exec_dec_readResponse (s := builtState slave fc (hi8 a) (lo8 a) (hi8 n) (lo8 n) st) rfl hf slave
    function size
  have count : (BitVec.ofNat 8 d.length).toNat ≠ expected := (Nat.mod_eq_of_lt (Nat.lt_succ_of_le size)).trans_ne other
  exact ⟨_, (exchange_received encoded decoded _).trans ((if_pos rfl).trans (if_neg count)), rfl⟩

/-- The loop of `READ_BITS`, under either of its requests. -/
theorem exchange_readBits (rx : List Byte) (st : State) : ∃ t,
    exchange request (.received rx) st (countChecked (bitBytes n) (fetchBits (List.range n.toNat))) =
      .next (readResult (bitBytes n) rx ((List.range n.toNat).map (responseBit rx)), t) ∧
    runInstrs ([request, .dec rx] ++ issuedFetches (readResult (bitBytes n) rx ((List.range n.toNat).map
      (responseBit rx))) ((List.range n.toNat).map fun i => asmGetBit (BitVec.ofNat 16 i))) st = .next t := by
  refine exchange_read form hf (fun u held => held.exists_fetchBits fun i hi => ?_) st
  have := List.mem_range.mp hi
  rw [bitBytes]
  omega

end

theorem readRegister_eq_readResult (s : Byte) (a : Word) (rx : List Byte) (st : State) : ∃ t,
    readRegister s a (.received rx) st = .next (readResult 2 rx (responseRegister rx 0), t) ∧
    runInstrs ([.encRdh s a 0x0001#16, .dec rx] ++
      issuedFetches (readResult 2 rx (responseRegister rx 0)) [.getReg [0x00#8]]) st = .next t := by
  refine exchange_read (.rdh s a 0x0001#16) rfl (fun u held => ?_) st
  have got : exec (asmGetReg 0x00#8) u = _ := held.exec_getReg (i := 0) (by decide)
  exact ⟨_, by rw [got, andThen_next], by rw [runInstrs_cons, ← asmGetReg, got, andThen_next, runInstrs_nil]⟩

theorem readRegisters_eq_readResult (s : Byte) (a n : Word) (rx : List Byte) (st : State) : ∃ t,
    readRegisters s a n (.received rx) st =
      .next (readResult (registerBytes n) rx ((List.range n.toNat).map (responseRegister rx)), t) ∧
    runInstrs ([.encRdh s a n, .dec rx] ++ issuedFetches (readResult (registerBytes n) rx ((List.range n.toNat).map
      (responseRegister rx))) ((List.range n.toNat).map fun i => asmGetReg (BitVec.ofNat 8 i))) st = .next t := by
  refine exchange_read (.rdh s a n) rfl (fun u held => held.exists_fetchRegisters fun i hi => ?_) st
  have := List.mem_range.mp hi
  rw [registerBytes]
  omega

/-- Settles O40: `byte_count` as a byte is 2 exactly when it is as a number. -/
theorem readRegisterResult : Obligations.ReadRegisterResult := by
  intro s a rx st L result fetches
  have count : rx.getD 2 0 ≠ 2#8 ↔ (byteCount rx).toNat ≠ 2 := not_congr BitVec.toNat_inj.symm
  have same : result = readResult 2 rx (responseRegister rx 0) := by
    simp only [result, count]
    rfl
  have issued : fetches = issuedFetches result [.getReg [0x00#8]] := by
    clear_value result
    cases result <;> rfl
  rw [issued, same]
  exact readRegister_eq_readResult s a rx st

/-- Settles O41: the law of typed reads, with the registers of the response as its value. -/
theorem readRegistersResult : Obligations.ReadRegistersResult := by
  intro s a n rx st L result fetches
  have issued : fetches = issuedFetches result ((List.range n.toNat).map fun i => asmGetReg (BitVec.ofNat 8 i)) := by
    clear_value result
    cases result <;> rfl
  rw [issued]
  exact readRegisters_eq_readResult s a n rx st

/-- Settles O43: the two read-bits codes choose the request; any other ends before the first command. -/
theorem readBitsResult : Obligations.ReadBitsResult := by
  intro s a n fc rx st L result fetches
  have issued : fetches = issuedFetches result ((List.range n.toNat).map fun i => asmGetBit (BitVec.ofNat 16 i)) := by
    clear_value result
    cases result <;> rfl
  rw [issued]
  refine ⟨?_, ?_, fun not_coils not_inputs _ => (if_neg not_coils).trans (if_neg not_inputs)⟩
  · rintro rfl
    exact exchange_readBits (.rdc s a n) rfl rx st
  · rintro rfl
    exact exchange_readBits (.rdi s a n) rfl rx st

/-! ### `ANALOG_READ` (R160) -/

/-- Settles O45: a response with two data bytes is seven bytes long and gives its register 0. -/
theorem analogReadIsReadRegister : Obligations.AnalogReadIsReadRegister := by
  refine fun s a st => ⟨fun _ => rfl, ⟨_, (EncForm.rdh s a 0x0001#16).exec_eq_built rfl st, rfl⟩,
    fun hi lo => ⟨length_readResponse s 0x03#8 [hi, lo], ?_⟩⟩
  obtain ⟨t, read, -⟩ := readRegister_eq_readResult s a (readResponse s 0x03#8 [hi, lo]) st
  have result : readResult 2 (readResponse s 0x03#8 [hi, lo]) _ = .value (be16 hi lo) :=
    readResult_readResponse s 0x03#8 (by simp) _
  exact ⟨t, read.trans (by rw [← result]; rfl)⟩

/-! ### The count check (R154) -/

theorem readRegisters_ne_value {n : Word} (many : 128 ≤ n.toNat) (s : Byte) (a : Word) (rx : List Byte)
    (st t : State) (vs : List Word) : readRegisters s a n (.received rx) st ≠ .next (.value vs, t) := by
  obtain ⟨u, read, -⟩ := readRegisters_eq_readResult s a n rx st
  have bytes : 255 < registerBytes n := by
    rw [registerBytes]
    omega
  simp [read, readResult_ne_value bytes]

theorem readBits_ne_value {n : Word} (many : 2041 ≤ n.toNat) (s : Byte) (a : Word) (fc : Byte) (rx : List Byte)
    (st t : State) (vs : List Bool) : readBits s a n fc (.received rx) st ≠ .next (.value vs, t) := by
  have bytes : 255 < bitBytes n := by
    rw [bitBytes]
    omega
  unfold readBits
  split_ifs
  · obtain ⟨u, read, -⟩ := exchange_readBits (.rdc s a n) rfl rx st
    simp [read, readResult_ne_value bytes]
  · obtain ⟨u, read, -⟩ := exchange_readBits (.rdi s a n) rfl rx st
    simp [read, readResult_ne_value bytes]
  · simp

/-- Settles O46: the expected number of bytes is compared as it is, and `byte_count` is at most 255. -/
theorem countCheckIsNotTruncated : Obligations.CountCheckIsNotTruncated := fun s a n rx st t =>
  ⟨fun many vs => readRegisters_ne_value many s a rx st t vs,
    fun many fc vs => readBits_ne_value many s a fc rx st t vs,
    fun _ size other => exchange_of_other_size (.rdh s a n) rfl 0x03#8 size other _ st⟩

end Sys2Proof.Machine
end

section
/-! PROOF. Errors (60_exceptions.md): error entry writes the code; the first failing check of `DEC` is said once as one chain of conditions; which row ends with which code; what keeps and what replaces a pending request when a transfer fails. -/

namespace Sys2Proof.Machine

/-! ### Error entry (R182, R184, R190) -/

/-- Settles O51. -/
theorem errorEntryWritesOnlyTheCode : Obligations.ErrorEntryWritesOnlyTheCode :=
  ⟨fun _ _ => rfl, rfl, rfl, rfl, rfl, rfl, rfl, rfl, rfl, rfl⟩

/-! ### The first failing check of `DEC` is reported (R188) -/

/-- Whether a response has the length that the path of the request in `TXBUF` accepts (42_decode.md R131, R132). -/
def hasPathLength (rx : List Byte) (s : State) : Bool :=
  if isReadFc s.txbuf.function then rx.length == 5 + (byteCount rx).toNat else rx.length == 8

theorem hasPathLength_eq_true_iff {rx : List Byte} {s : State} : hasPathLength rx s = true ↔
    if isReadFc s.txbuf.function then rx.length = 5 + (byteCount rx).toNat else rx.length = 8 := by
  unfold hasPathLength
  split_ifs <;> exact beq_iff_eq

theorem hasPathLength_eq_false_iff {rx : List Byte} {s : State} : hasPathLength rx s = false ↔
    if isReadFc s.txbuf.function then rx.length < 5 ∨ rx.length ≠ 5 + (byteCount rx).toNat else rx.length ≠ 8 := by
  rw [← Bool.not_eq_true, hasPathLength_eq_true_iff]
  split_ifs
  · omega
  · rfl

theorem ne_nil_of_hasPathLength {rx : List Byte} {s : State} (whole : hasPathLength rx s = true) : rx ≠ [] := by
  rintro rfl
  cases hf : isReadFc s.txbuf.function
  · simp [hasPathLength, hf] at whole
  · simp [hasPathLength, hf] at whole
    omega

/-- The checks of `DEC` under a pending request, in their order. -/
theorem decodeResponse_status {s : State} (hv : s.txvalid = true) (rx : List Byte) :
    (decodeResponse rx s).status =
      if rx = [] then 1#4
      else if hasPathLength rx s = false then 3#4
      else if crcOk rx = false then 2#4
      else if isReadFc s.txbuf.function = false ∧ rx.take 6 ≠ frameHeader s.txbuf then 4#4
      else 0#4 := by
  have crcOk_false : crcOk rx = false ↔ crc16 (crcCovered rx) ≠ receivedCrc rx := beq_eq_false_iff_ne
  simp only [← List.length_eq_zero_iff, hasPathLength_eq_false_iff, crcOk_false]
  cases hf : isReadFc s.txbuf.function
  · rw [decodeResponse_of_write hv hf]
    obtain ⟨empty, h⟩ | ⟨nonempty, wrong, h⟩ | ⟨eight, differ, h⟩ | ⟨eight, equal, other, h⟩ |
      ⟨eight, equal, same, h⟩ := writePath_cases rx (writeTxvalid false s) <;> rw [h]
    · simp [empty]
    · simp [nonempty, wrong]
    · simp [eight, differ]
    · simp [eight, equal, show rx.take 6 ≠ frameHeader s.txbuf from other]
    · simp [eight, equal, show rx.take 6 = frameHeader s.txbuf from same]
  · rw [decodeResponse_of_read hv hf]
    obtain ⟨empty, h⟩ | ⟨nonempty, wrong, h⟩ | ⟨whole, differ, h⟩ | ⟨whole, equal, h⟩ :=
      readPath_cases rx (writeTxvalid false s) <;> rw [h]
    · simp [empty]
    · simp [nonempty, wrong]
    · simp [whole, differ]
    · simp [whole, equal]

section
variable {rx : List Byte} {s : State} (hv : s.txvalid = true)
include hv

theorem decodeResponse_status_of_empty : (decodeResponse [] s).status = 1#4 := by
  rw [decodeResponse_status hv, if_pos rfl]

theorem decodeResponse_status_of_wrong_length (nonempty : rx ≠ []) (wrong : hasPathLength rx s = false) :
    (decodeResponse rx s).status = 3#4 := by
  rw [decodeResponse_status hv, if_neg nonempty, if_pos wrong]

theorem decodeResponse_status_of_wrong_crc (whole : hasPathLength rx s = true) (bad : crcOk rx = false) :
    (decodeResponse rx s).status = 2#4 := by
  rw [decodeResponse_status hv, if_neg (ne_nil_of_hasPathLength whole), if_neg (by simp [whole]), if_pos bad]

theorem decodeResponse_status_of_other_echo (hf : isReadFc s.txbuf.function = false)
    (whole : hasPathLength rx s = true) (good : crcOk rx = true) (other : rx.take 6 ≠ frameHeader s.txbuf) :
    (decodeResponse rx s).status = 4#4 := by
  rw [decodeResponse_status hv, if_neg (ne_nil_of_hasPathLength whole), if_neg (by simp [whole]),
    if_neg (by simp [good]), if_pos ⟨hf, other⟩]

end

/-- A wrong CRC is reported only at the right length, a wrong echo only of a write request and with a right CRC. -/
theorem checks_of_decodeResponse_status (rx : List Byte) (s : State) :
    ((decodeResponse rx s).status = 2#4 → hasPathLength rx s = true ∧ crcOk rx = false) ∧
    ((decodeResponse rx s).status = 4#4 →
      isReadFc s.txbuf.function = false ∧ hasPathLength rx s = true ∧ crcOk rx = true) := by
  cases hv : s.txvalid
  · simp [decodeResponse_of_no_request hv]
  · rw [decodeResponse_status hv]
    split_ifs with empty wrong bad echo
    · simp
    · simp
    · simpa [bad] using wrong
    · simpa [echo] using And.intro wrong bad
    · simp

theorem decodeResponse_status_ne_seven (rx : List Byte) (s : State) : (decodeResponse rx s).status ≠ 7#4 := by
  cases hv : s.txvalid
  · simp [decodeResponse_of_no_request hv]
  · rw [decodeResponse_status hv]
    split_ifs <;> simp

/-- Settles O52: `DEC` makes its checks in the order of `decodeResponse_status`; the other commands look at the length
of their argument before anything else. -/
theorem firstErrorIsReported : Obligations.FirstErrorIsReported := by
  refine ⟨fun s t rx h => ?_, fun s t f short h => ?_, fun s t arg wrong h => ?_, fun s t arg wrong h => ?_,
    fun s t arg wrong h => ?_⟩
  · obtain rfl : decodeResponse rx s = t := next_injective h
    obtain ⟨crc_error, echo_error⟩ := checks_of_decodeResponse_status rx s
    refine ⟨decodeResponse_status_ne_seven rx s, fun hv => by rw [decodeResponse_of_no_request hv], ?_, ?_, ?_, ?_,
      ?_, ?_⟩
    · rintro hv rfl
      exact decodeResponse_status_of_empty hv
    · exact fun hv nonempty wrong =>
        decodeResponse_status_of_wrong_length hv nonempty (hasPathLength_eq_false_iff.mpr wrong)
    · exact fun hv whole bad => decodeResponse_status_of_wrong_crc hv (hasPathLength_eq_true_iff.mpr whole) bad
    · intro hv hf eight good other
      have whole : hasPathLength rx s = true := by simp [hasPathLength, hf, eight]
      exact decodeResponse_status_of_other_echo hv hf whole good other
    · intro code
      obtain ⟨whole, bad⟩ := crc_error code
      exact ⟨bad, hasPathLength_eq_true_iff.mp whole⟩
    · intro code
      obtain ⟨hf, whole, good⟩ := echo_error code
      have eight : rx.length = 8 := by simpa [hasPathLength, hf] using whole
      exact ⟨hf, eight, good⟩
  · rw [← next_injective ((exec_crcCheck_short short s).symm.trans h)]
  · rw [← next_injective ((exec_enc_of_length_ne wrong s).symm.trans h)]
  · rw [← next_injective ((exec_getReg_of_length_ne wrong s).symm.trans h)]
  · rw [← next_injective ((exec_getBit_of_length_ne wrong s).symm.trans h)]

/-! ### Which row ends with which code (R185) -/

/-- Some instruction of the row, in some state, ends with the outcome. -/
def OutcomeRow.EndsWith (row : OutcomeRow) (k : Status) : Prop :=
  ∃ i s t, row.covers i s = true ∧ exec i s = .next t ∧ t.status = statusCode k

/-- The row of the path that the request in `TXBUF` selects. -/
def decPath (s : State) : OutcomeRow := if isReadFc s.txbuf.function then .decReadPath else .decWritePath

/-- An instruction belongs to the row of its command, and a `DEC` also to that of its path. -/
theorem OutcomeRow.eq_of_covers {row : OutcomeRow} {i : Instr} {s : State} (covered : row.covers i s = true) :
    row = .command (commandRow i) ∨ (commandRow i = .dec ∧ row = decPath s) := by
  cases row with
  | command r => exact .inl (congrArg command (beq_iff_eq.mp covered).symm)
  | decReadPath =>
    obtain ⟨hi, hf⟩ : commandRow i = .dec ∧ isReadFc s.txbuf.function = true := by simpa [covers] using covered
    exact .inr ⟨hi, (if_pos hf).symm⟩
  | decWritePath =>
    obtain ⟨hi, hf⟩ : commandRow i = .dec ∧ isReadFc s.txbuf.function = false := by simpa [covers] using covered
    exact .inr ⟨hi, (if_neg (by simp [hf])).symm⟩

/-- `DEC` as a whole has the cells of its paths. -/
theorem mem_outcomes_of_decPath {s : State} {k : Status} (h : k ∈ (decPath s).outcomes) :
    k ∈ (OutcomeRow.command .dec).outcomes := by
  have subset : OutcomeRow.decReadPath.outcomes ⊆ (OutcomeRow.command .dec).outcomes := by decide
  unfold decPath at h
  split_ifs at h
  · exact subset h
  · exact h

theorem readPath_outcome (rx : List Byte) (s : State) :
    ∃ k ∈ OutcomeRow.decReadPath.outcomes, statusCode k = (readPath rx s).status := by
  obtain ⟨-, h⟩ | ⟨-, -, h⟩ | ⟨-, -, h⟩ | ⟨-, -, h⟩ := readPath_cases rx s <;> rw [h]
  · exact ⟨.timeoutError, by decide, rfl⟩
  · exact ⟨.shortFrameError, by decide, rfl⟩
  · exact ⟨.crcError, by decide, rfl⟩
  · exact ⟨.ok, by decide, rfl⟩

theorem writePath_outcome (rx : List Byte) (s : State) :
    ∃ k ∈ OutcomeRow.decWritePath.outcomes, statusCode k = (writePath rx s).status := by
  obtain ⟨-, h⟩ | ⟨-, -, h⟩ | ⟨-, -, h⟩ | ⟨-, -, -, h⟩ | ⟨-, -, -, h⟩ := writePath_cases rx s <;> rw [h]
  · exact ⟨.timeoutError, by decide, rfl⟩
  · exact ⟨.shortFrameError, by decide, rfl⟩
  · exact ⟨.crcError, by decide, rfl⟩
  · exact ⟨.echoMismatchError, by decide, rfl⟩
  · exact ⟨.ok, by decide, rfl⟩

theorem decodeResponse_outcome (rx : List Byte) (s : State) :
    ∃ k ∈ (decPath s).outcomes, statusCode k = (decodeResponse rx s).status := by
  obtain ⟨-, h⟩ | ⟨-, hf, h⟩ | ⟨-, hf, h⟩ := decodeResponse_cases rx s <;> rw [h]
  · refine ⟨.noRequest, ?_, rfl⟩
    unfold decPath
    split_ifs <;> decide
  · rw [decPath, if_pos hf]
    exact readPath_outcome rx _
  · rw [decPath, if_neg (by simp [hf])]
    exact writePath_outcome rx _

/-- The outcome of an effect stands in the row of its command. -/
theorem Effect.outcome {i : Instr} {s t : State} (effect : Effect i s t) :
    ∃ k ∈ (OutcomeRow.command (commandRow i)).outcomes, statusCode k = t.status := by
  cases effect with
  | illegal row =>
    refine ⟨.illegalCommand, ?_, rfl⟩
    cases hr : commandRow i <;> simp [hr, OutcomeRow.outcomes] at row ⊢
  | crcInit row => exact ⟨.ok, by rw [row]; decide, rfl⟩
  | crcByte b row => exact ⟨.ok, by rw [row]; decide, rfl⟩
  | crcBlock c row => exact ⟨.ok, by rw [row]; decide, rfl⟩
  | crcCheckShort row => exact ⟨.shortFrameError, by rw [row]; decide, rfl⟩
  | crcCheck c k row code =>
    rw [row]
    obtain rfl | rfl := code
    · exact ⟨.ok, by decide, rfl⟩
    · exact ⟨.crcError, by decide, rfl⟩
  | built _ _ _ _ _ _ row => exact ⟨.ok, by rw [row]; decide, rfl⟩
  | unsupported row => exact ⟨.unsupportedFunction, by rw [row]; decide, rfl⟩
  | dec rx eq =>
    subst eq
    obtain ⟨k, mem, code⟩ := decodeResponse_outcome rx s
    exact ⟨k, mem_outcomes_of_decPath mem, code⟩
  | getReg k eq =>
    subst eq
    obtain ⟨-, h⟩ | ⟨-, h⟩ := fetchRegister_cases k.toNat s <;> rw [h, commandRow]
    · exact ⟨.ok, by decide, rfl⟩
    · exact ⟨.indexRange, by decide, rfl⟩
  | getBit hi lo eq =>
    subst eq
    obtain ⟨-, h⟩ | ⟨-, h⟩ := fetchBit_cases (be16 hi lo).toNat s <;> rw [h, commandRow]
    · exact ⟨.ok, by decide, rfl⟩
    · exact ⟨.indexRange, by decide, rfl⟩

/-- No code but those of the row's cells. -/
theorem exists_outcome_of_covers {row : OutcomeRow} {i : Instr} {s t : State} (covered : row.covers i s = true)
    (h : exec i s = .next t) : ∃ k ∈ row.outcomes, statusCode k = t.status := by
  obtain rfl | ⟨hi, rfl⟩ := OutcomeRow.eq_of_covers covered
  · exact (exec_effect h).outcome
  · cases exec_effect h with
    | dec rx => exact decodeResponse_outcome rx s
    | _ => simp_all [commandRow] -- the effects of other rows

/-! Each cell of R185 occurs. -/

/-- A pending request of a function, with zeros for its operands. -/
def pendingState (function : Byte) : State :=
  builtState 0x00#8 function 0x00#8 0x00#8 0x00#8 0x00#8 State.reset

/-- Two bytes of data are valid. -/
def holdingState : State := { State.reset with data := [0x00#8, 0x00#8], dlen := 0x02#8 }

/-- A frame that fails the check: its first bit is flipped (40_crc.md R99). -/
def corrupted (body : List Byte) : List Byte := flipBit (withCrc body) 0 0

theorem crcOk_corrupted (body : List Byte) : crcOk (corrupted body) = false :=
  singleBitSensitivity body 0 0 (by simp [length_withCrc]) (by decide)

theorem decReadPath_endsWith {k : Status} (h : k ∈ OutcomeRow.decReadPath.outcomes) :
    OutcomeRow.decReadPath.EndsWith k := by
  have pending : (pendingState 0x03#8).txvalid = true := rfl
  simp only [OutcomeRow.outcomes, List.mem_cons, List.not_mem_nil, or_false] at h
  obtain rfl | rfl | rfl | rfl | rfl := h
  · exact ⟨.dec (readResponse 0x00#8 0x03#8 []), pendingState 0x03#8, _, rfl,
      exec_dec_readResponse rfl rfl _ _ (by decide), rfl⟩
  · exact ⟨.dec [], _, _, rfl, rfl, decodeResponse_status_of_empty pending⟩
  · exact ⟨.dec (corrupted [0x00#8, 0x03#8, 0x00#8]), _, _, rfl, rfl,
      decodeResponse_status_of_wrong_crc pending rfl (crcOk_corrupted _)⟩
  · exact ⟨.dec [0x00#8], _, _, rfl, rfl, decodeResponse_status_of_wrong_length pending (by decide) (by decide)⟩
  · exact ⟨.dec [], { pendingState 0x03#8 with txvalid := false }, _, rfl, exec_dec_of_no_request rfl _, rfl⟩

theorem decWritePath_endsWith {k : Status} (h : k ∈ OutcomeRow.decWritePath.outcomes) :
    OutcomeRow.decWritePath.EndsWith k := by
  have pending : (pendingState 0x05#8).txvalid = true := rfl
  simp only [OutcomeRow.outcomes, List.mem_cons, List.not_mem_nil, or_false] at h
  obtain rfl | rfl | rfl | rfl | rfl | rfl := h
  · exact ⟨.dec (withCrc [0x00#8, 0x05#8, 0x00#8, 0x00#8, 0x00#8, 0x00#8]), pendingState 0x05#8, _, rfl,
      exec_dec_of_write rfl rfl _, (writePath_status_eq_zero_iff _ _).mpr rfl⟩
  · exact ⟨.dec [], _, _, rfl, rfl, decodeResponse_status_of_empty pending⟩
  · exact ⟨.dec (corrupted (List.replicate 6 0x00#8)), _, _, rfl, rfl,
      decodeResponse_status_of_wrong_crc pending rfl (crcOk_corrupted _)⟩
  · exact ⟨.dec [0x00#8], _, _, rfl, rfl, decodeResponse_status_of_wrong_length pending (by decide) (by decide)⟩
  · exact ⟨.dec (withCrc (List.replicate 6 0x00#8)), _, _, rfl, rfl,
      decodeResponse_status_of_other_echo pending rfl rfl (crcOk_withCrc _) (by decide)⟩
  · exact ⟨.dec [], State.reset, _, rfl, exec_dec_of_no_request reset_txvalid _, rfl⟩

/-- A command of fixed length is refused with an argument of another length, a `GET` also where no data is held; the
cells of `DEC` are those of its write path. -/
theorem command_endsWith {row : CommandRow} {k : Status} (h : k ∈ (OutcomeRow.command row).outcomes) :
    (OutcomeRow.command row).EndsWith k := by
  cases row <;> simp only [OutcomeRow.outcomes, List.mem_cons, List.not_mem_nil, or_false] at h
  case crcInit =>
    obtain rfl | rfl := h
    · exact ⟨.crcInit [], State.reset, _, rfl, rfl, rfl⟩
    · exact ⟨.crcInit [0x00#8], State.reset, _, rfl, rfl, rfl⟩
  case crcByte =>
    obtain rfl | rfl := h
    · exact ⟨.crcByte [0x00#8], State.reset, _, rfl, rfl, rfl⟩
    · exact ⟨.crcByte [], State.reset, _, rfl, rfl, rfl⟩
  case crcBlock =>
    subst h
    exact ⟨.crcBlock [], State.reset, _, rfl, rfl, rfl⟩
  case crcCheck =>
    obtain rfl | rfl | rfl := h
    · exact ⟨.crcCheck (withCrc []), State.reset, _, rfl, exec_crcCheck_withCrc [] _, rfl⟩
    · exact ⟨.crcCheck (corrupted []), State.reset, _, rfl, exec_crcCheck_bad (by decide) (crcOk_corrupted []) _, rfl⟩
    · exact ⟨.crcCheck [], State.reset, _, rfl, exec_crcCheck_short (by decide) _, rfl⟩
  case enc =>
    obtain rfl | rfl | rfl := h
    · exact ⟨.encRdh 0x00#8 0x0000#16 0x0000#16, State.reset, _, rfl, (EncForm.rdh _ _ _).exec_eq_built rfl _, rfl⟩
    · exact ⟨.encRaw 0x00#8 0x00#8 0x00#8 0x00#8 0x00#8 0x00#8, State.reset, _, rfl,
        exec_enc_of_unsupported rfl _ _ _ _ _ _, rfl⟩
    · exact ⟨.enc [], State.reset, _, rfl, exec_enc_of_length_ne (by decide) _, rfl⟩
  case dec =>
    obtain ⟨i, s, t, covered, run, code⟩ := decWritePath_endsWith (k := k) (by simpa [OutcomeRow.outcomes] using h)
    exact ⟨i, s, t, (Bool.and_eq_true_iff.mp covered).1, run, code⟩
  case getReg =>
    obtain rfl | rfl | rfl := h
    · exact ⟨.getReg [0x00#8], holdingState, _, rfl, exec_getReg_of_lt (by decide), rfl⟩
    · exact ⟨.getReg [], State.reset, _, rfl, rfl, rfl⟩
    · exact ⟨.getReg [0x00#8], State.reset, _, rfl, exec_getReg_of_le (by decide), rfl⟩
  case getBit =>
    obtain rfl | rfl | rfl := h
    · exact ⟨.getBit [0x00#8, 0x00#8], holdingState, _, rfl, rfl, rfl⟩
    · exact ⟨.getBit [], State.reset, _, rfl, rfl, rfl⟩
    · exact ⟨.getBit [0x00#8, 0x00#8], State.reset, _, rfl, rfl, rfl⟩
  case reserved =>
    subst h
    exact ⟨.reserved0 [], State.reset, _, rfl, rfl, rfl⟩

theorem OutcomeRow.endsWith_of_mem {row : OutcomeRow} {k : Status} (h : k ∈ row.outcomes) : row.EndsWith k := by
  cases row with
  | command row => exact command_endsWith h
  | decReadPath => exact decReadPath_endsWith h
  | decWritePath => exact decWritePath_endsWith h

/-- Settles O49: an effect ends with an outcome of its row, and each cell has its example. -/
theorem outcomeMatrix : Obligations.OutcomeMatrix := by
  intro row code
  constructor
  · rintro ⟨i, s, t, covered, run, rfl⟩
    exact exists_outcome_of_covers covered run
  · rintro ⟨k, mem, rfl⟩
    exact OutcomeRow.endsWith_of_mem mem

/-! ### After a transport failure (R183) -/

/-- A request whose transfer fails is pending in the state its `ENC` left, and there the exchange ends. -/
theorem EncForm.exchange_transportError {α : Type} {request : Instr} {slave function : Byte} {a v : Word}
    (form : EncForm (headerBytes slave function a v) request) (supported : isFc function = true)
    (accepted : State → HostOutcome α) (st : State) :
    ∃ t, exec request st = .next t ∧ t.txvalid = true ∧
      exchange request .transportError st accepted = .next (.transportError, t) :=
  have encoded := form.exec_eq_built supported st
  ⟨_, encoded, rfl, Machine.exchange_transportError encoded accepted⟩

/-- Only `ENC` and `DEC` touch the request, and `ENC` only to put its own in its place (R33, 41_encode.md R110). -/
theorem Effect.request_kept_or_built {i : Instr} {s t : State} (effect : Effect i s t)
    (not_dec : commandRow i ≠ .dec) :
    (t.txvalid = s.txvalid ∧ t.txbuf = s.txbuf) ∨ (commandRow i = .enc ∧ t.status = 0#4 ∧ t.txvalid = true) := by
  cases effect with
  | built _ _ _ _ _ _ row => exact .inr ⟨row, rfl, rfl⟩
  | dec rx eq => exact absurd (congrArg commandRow eq) not_dec
  | getReg k =>
    obtain ⟨-, h⟩ | ⟨-, h⟩ := fetchRegister_cases k.toNat s <;> exact .inl ⟨by rw [h], by rw [h]⟩
  | getBit hi lo =>
    obtain ⟨-, h⟩ | ⟨-, h⟩ := fetchBit_cases (be16 hi lo).toNat s <;> exact .inl ⟨by rw [h], by rw [h]⟩
  | _ => exact .inl ⟨rfl, rfl⟩ -- the other effects write `CRC` and `STATUS` alone

theorem length_eq_six_of_enc_ok {h : List Byte} {s t : State} (run : exec (.enc h) s = .next t)
    (ok : t.status = 0#4) : h.length = 6 := by
  by_contra wrong
  obtain rfl := next_injective ((exec_enc_of_length_ne wrong s).symm.trans run)
  simp at ok

theorem exec_dec_nil {s : State} (hv : s.txvalid = true) :
    exec (.dec []) s = .next { s with txvalid := false, dlen := 0#8, status := 1#4 } := by
  cases hf : isReadFc s.txbuf.function
  · exact (exec_dec_of_write hv hf []).trans (congrArg _ (writePath_of_empty _ rfl))
  · exact (exec_dec_of_read hv hf []).trans (congrArg _ (readPath_of_empty _ rfl))

/-- Settles O47: each typed operation is an exchange of a form of `ENC`; of the other commands only a successful `ENC`
writes the request. -/
theorem transportFailureLeavesTheRequestPending : Obligations.TransportFailureLeavesTheRequestPending := by
  refine ⟨?_, fun i s t hv not_dec h => ?_, fun h s t run ok => ?_,
    fun s => exec_dec_nil⟩
  · intro s a n v state st stopsPending
    have read : stopsPending Word (.encRdh s a 0x0001#16) (readRegister s a) :=
      (EncForm.rdh s a 0x0001#16).exchange_transportError rfl _ st
    have bits {request : Instr} {fc : Byte} (form : EncForm (headerBytes s fc a n) request)
        (supported : isFc fc = true) :=
      form.exchange_transportError supported (countChecked (bitBytes n) (fetchBits (List.range n.toNat))) st
    exact ⟨read, (EncForm.rdh s a n).exchange_transportError rfl _ st,
      (EncForm.wrr s a v).exchange_transportError rfl _ st, bits (.rdc s a n) rfl, bits (.rdi s a n) rfl,
      (EncForm.wrb s a _).exchange_transportError rfl _ st, read⟩
  · obtain ⟨pending, frame⟩ | ⟨row, ok, pending⟩ := (exec_effect h).request_kept_or_built not_dec
    · exact ⟨pending.trans hv, .inl frame⟩
    · exact ⟨pending, .inr ⟨row, ok⟩⟩
  · obtain ⟨a, b, c, d, e, f, rfl⟩ := eq_builtState_of_enc_ok rfl run ok
    exact ⟨rfl, take_frameBytes_of_enc_ok (length_eq_six_of_enc_ok run ok) run ok⟩

end Sys2Proof.Machine
end

section
/-! PROOF. Hazards of a pending exchange (70_reset_and_hazards.md): the registers that a `DEC` reads and leaves data in are kept by every command other than `ENC` and `DEC`, so such commands do not disturb it; a successful `ENC` puts its own header there, so it replaces the request, and the echo of another header is then a mismatch. -/

namespace Sys2Proof.Machine

/-! ### An exclusive exchange is undisturbed (R216) -/

/-- Two states stand alike in an exchange: the same request, the same pending mark, the same data. -/
structure SameExchange (s t : State) : Prop where
  txbuf : t.txbuf = s.txbuf
  txvalid : t.txvalid = s.txvalid
  dlen : t.dlen = s.dlen
  data : t.data = s.data

theorem SameExchange.refl (s : State) : SameExchange s s := ⟨rfl, rfl, rfl, rfl⟩

theorem SameExchange.trans {s t u : State} (h : SameExchange s t) (h' : SameExchange t u) : SameExchange s u :=
  ⟨h'.txbuf.trans h.txbuf, h'.txvalid.trans h.txvalid, h'.dlen.trans h.dlen, h'.data.trans h.data⟩

/-- The updates of the rows other than `ENC` and `DEC` write no register of an exchange (10_state.md R33). -/
theorem Update.Fits.sameExchange_apply {u : Update} {row : CommandRow} (fits : u.Fits row) (ne_enc : row ≠ .enc)
    (ne_dec : row ≠ .dec) (s : State) : SameExchange s (u.apply s) := by
  have txbuf : u.txbuf = none := Option.not_isSome_iff_eq_none.mp fun written => ne_enc (fits.txbuf.mp written).1
  have txvalid : u.txvalid = none := Option.not_isSome_iff_eq_none.mp fun written => by
    simpa [ne_enc, ne_dec] using fits.txvalid written
  have response : u.response = none := Option.eq_none_iff_forall_not_mem.mpr fun d hd =>
    ne_dec (fits.response d hd).1
  exact ⟨by simp [apply, txbuf], by simp [apply, txvalid], apply_dlen_none response, apply_data_none response⟩

theorem sameExchange_of_exec {i : Instr} {s t : State} (ne_enc : commandRow i ≠ .enc) (ne_dec : commandRow i ≠ .dec)
    (h : exec i s = .next t) : SameExchange s t := by
  obtain ⟨u, fits, rfl⟩ := exec_eq_apply h
  exact fits.sameExchange_apply ne_enc ne_dec s

theorem sameExchange_of_runInstrs {is : List Instr} {s t : State}
    (other : ∀ i ∈ is, commandRow i ≠ .enc ∧ commandRow i ≠ .dec) (h : runInstrs is s = .next t) :
    SameExchange s t := by
  induction is generalizing s with
  | nil => exact next_injective h ▸ .refl s
  | cons i is ih =>
    obtain ⟨s1, first, rest⟩ := andThen_eq_next_iff.mp h
    obtain ⟨ne_enc, ne_dec⟩ := other i List.mem_cons_self
    exact (sameExchange_of_exec ne_enc ne_dec first).trans (ih (fun j hj => other j (List.mem_cons_of_mem i hj)) rest)

/-- `DEC` reads registers of the exchange alone, so it makes the same update in states that stand alike there. -/
theorem SameExchange.dec_agrees {s t u v : State} (same : SameExchange s t) {rx : List Byte}
    (hs : exec (.dec rx) s = .next u) (ht : exec (.dec rx) t = .next v) :
    v.status = u.status ∧ SameExchange u v := by
  have alike : ReadsAlike .dec s t :=
    ⟨nofun, fun _ => same.txvalid.symm, fun _ _ => same.txbuf.symm, by simp, by simp⟩
  obtain ⟨update, -, rfl, rfl⟩ := exec_eq_apply_both (i := .dec rx) alike hs ht
  exact ⟨rfl, by simp [Update.apply, same.txbuf], by simp [Update.apply, same.txvalid],
    by simp [Update.apply, same.dlen], by simp [Update.apply, same.data]⟩

/-- Settles O56, by induction on the commands in between; the `DEC` then leaves all of `DATA` the same. -/
theorem exclusiveExchangeIsUndisturbed : Obligations.ExclusiveExchangeIsUndisturbed := by
  intro between s t u v rx other run at_once later
  have same := sameExchange_of_runInstrs other run
  obtain ⟨status, after⟩ := same.dec_agrees at_once later
  exact ⟨same.txbuf, same.txvalid, status, after.dlen, fun k _ => congrArg (·[k]?) after.data⟩

/-! ### An interleaved request is replaced (R215) -/

/-- The request with header `h` is pending, as `ENC` builds it (41_encode.md R110). -/
structure RequestPending (h : List Byte) (t : State) : Prop where
  txvalid : t.txvalid = true
  header : frameHeader t.txbuf = h
  bytes : frameBytes t.txbuf = withCrc h

theorem RequestPending.function {h : List Byte} {t : State} (pending : RequestPending h t) :
    t.txbuf.function = h.getD 1 0 := by
  rw [← pending.header]
  rfl

theorem requestPending_builtState (a b c d e f : Byte) (s : State) :
    RequestPending [a, b, c, d, e, f] (builtState a b c d e f s) := ⟨rfl, rfl, rfl⟩

/-- `ENC` of a supported header leaves it pending, whatever was pending before. -/
theorem requestPending_of_supported {h : List Byte} {s t : State} (h6 : h.length = 6)
    (supported : isFc (h.getD 1 0) = true) (run : exec (.enc h) s = .next t) : RequestPending h t := by
  obtain ⟨a, b, c, d, e, f, rfl⟩ := exists_six_of_length h6
  obtain rfl := next_injective ((exec_enc_of_supported supported a c d e f s).symm.trans run)
  exact requestPending_builtState a b c d e f s

/-- So does every successful `ENC`. -/
theorem requestPending_of_enc_ok {h : List Byte} {s t : State} (run : exec (.enc h) s = .next t)
    (ok : t.status = 0#4) : RequestPending h t := by
  obtain ⟨a, b, c, d, e, f, rfl, built⟩ := exec_enc_built_of_ok (length_eq_six_of_enc_ok run ok) run ok
  obtain rfl := next_injective ((built s).symm.trans run)
  exact requestPending_builtState a b c d e f s

theorem isFc_of_isWriteFc {x : Byte} (h : isWriteFc x = true) : isFc x = true := by simp [isFc, h]

/-- The write path takes a header with its CRC for the echo of the request or for the echo of another one. -/
theorem writePath_status_withCrc {h : List Byte} (h6 : h.length = 6) (s : State) :
    (writePath (withCrc h) s).status = if h = frameHeader s.txbuf then 0#4 else 4#4 := by
  split_ifs with same
  · exact (writePath_status_eq_zero_iff _ s).mpr (congrArg withCrc same)
  · have eight : (withCrc h).length = 8 := by rw [length_withCrc, h6]
    have header : (withCrc h).take 6 = h := h6 ▸ List.take_left
    have crc : crc16 ((withCrc h).take 6) = be16 (byteAt (withCrc h) 7) (byteAt (withCrc h) 6) := by
      have ok := beq_iff_eq.mp (crcOk_withCrc h)
      rwa [crcCovered, receivedCrc, eight] at ok
    rw [writePath_of_length_eight s eight, if_pos crc, header, if_neg same]

/-- Settles O57: `ENC` looks at no register and builds its own header; the echo of `h` is `h` with its CRC. -/
theorem interleavedRequestIsReplaced : Obligations.InterleavedRequestIsReplaced := by
  refine ⟨fun h s t run ok _ => ?_, fun h h' s t u v h6 h6' hw hw' first second decoded => ?_,
    fun h s t slave function d h6 hf size run => ?_⟩
  · have pending := requestPending_of_enc_ok run ok
    exact ⟨pending.txvalid, pending.header⟩
  · have replaced := requestPending_of_supported h6 (isFc_of_isWriteFc hw) first
    have pending := requestPending_of_supported h6' (isFc_of_isWriteFc hw') second
    have write : isReadFc u.txbuf.function = false := isReadFc_of_isWriteFc (pending.function ▸ hw')
    rw [replaced.bytes, exec_dec_of_write pending.txvalid write] at decoded
    rw [← next_injective decoded, writePath_status_withCrc h6, pending.header]
  · have pending := requestPending_of_supported h6 (isFc_of_isReadFc hf) run
    exact ⟨_, exec_dec_readResponse pending.txvalid (pending.function ▸ hf) slave function size, rfl, rfl,
      List.take_left⟩

end Sys2Proof.Machine
end

section
/-! PROOF. The command port, the presented table words and the reading of "reflected" (10_state.md R22, 60_exceptions.md R193, 30_encoding.md R69, R74, 40_crc.md R90): a step is its first command executed with the rest left, and no command touches the rest; bit reversal takes the codec's CRC loop to the forward one, shift by shift. -/

namespace Sys2Proof.Machine

/-! ### No command changes the commands that follow it (10_state.md R22, 60_exceptions.md R193) -/

theorem exec_keeps_port {i : Instr} {s t : State} (h : exec i s = .next t) : t.port = s.port := by
  obtain ⟨u, -, rfl⟩ := exec_eq_apply h
  rfl

/-- Settles O6: every instruction is one update of the registers, and it makes the same update whatever commands
follow. -/
theorem commandsLeaveThePortAlone : Obligations.CommandsLeaveThePortAlone := by
  intro i s p
  obtain ⟨t, h⟩ := exec_next i s
  exact ⟨t, h, exec_keeps_port h, exec_withPort h p⟩

/-! ### A step is its first presented command (10_state.md R22) -/

theorem step_of_port_nil {s : State} (h : s.port = []) : step s = .next s := by
  simp only [step, takeCommand, h]

theorem step_of_port_cons {s : State} {c : Command} {rest : List Command} (h : s.port = c :: rest) :
    step s = exec (decode c) (withPort rest s) := by
  simp only [step, takeCommand, h]
  rfl

theorem step_next (s : State) : ∃ t, step s = .next t := by
  cases h : s.port with
  | nil => exact ⟨s, step_of_port_nil h⟩
  | cons c rest =>
    rw [step_of_port_cons h]
    exact exec_next (decode c) _

theorem step_presentCommand (c : Command) (s : State) : step (presentCommand c s) = exec (decode c) s :=
  step_withPort_cons c s.port s

theorem decodeTableWord_of_tableCommand {nbits w : Nat} {c : Command} (h : tableCommand nbits w = some c) :
    decodeTableWord nbits w = some (decode c) := by
  rw [decodeTableWord, h, Option.map_some]

theorem withFetchWord_of_tableCommand {nbits w : Nat} {c : Command} (h : tableCommand nbits w = some c) (s : State) :
    s.withFetchWord nbits w = presentCommand c s := by
  rw [State.withFetchWord, h]

/-- Settles O5: the port decides what a step does, and a table word is its command presented. -/
theorem stepRunsThePresentedCommand : Obligations.StepRunsThePresentedCommand := by
  refine ⟨fun s c rest => step_of_port_cons, fun s => step_of_port_nil, step_next, fun s nbits w c h => ?_⟩
  rw [withFetchWord_of_tableCommand h]
  exact ⟨decodeTableWord_of_tableCommand h, step_presentCommand c s⟩

/-! ### Table words (30_encoding.md R69, R74) -/

/-- Settles O7: a 64-bit word is the form that its function byte selects, a 4-bit word the instruction of its code. -/
theorem tableWordsDecodeAsWritten : Obligations.TableWordsDecodeAsWritten :=
  ⟨decodeTableWord_of_form _ rfl (.rdh 0x01#8 0x0000#16 0x0001#16),
    decodeTableWord_of_form _ rfl (.rdc 0x01#8 0x0013#16 0x0025#16),
    decodeTableWord_of_form _ rfl (.rdi 0x02#8 0x0000#16 0x000A#16),
    decodeTableWord_of_form _ rfl (.wrb 0x11#8 0x00AC#16 0xFF00#16),
    decodeTableWord_of_form _ rfl (.wrr 0x01#8 0x0001#16 0x0003#16),
    decodeTableWord_of_form _ rfl (.raw 0x01#8 0x04#8 0x00#8 0x00#8 0x00#8 0x01#8 rfl),
    rfl, rfl, rfl, rfl⟩

/-! ### Bit reversal takes the reflected CRC to the forward one (40_crc.md R90) -/

theorem reverse_xor {n : Nat} (x y : BitVec n) : (x ^^^ y).reverse = x.reverse ^^^ y.reverse := by
  apply BitVec.eq_of_getLsbD_eq
  intro i _
  simp only [BitVec.getLsbD_reverse, BitVec.getLsbD_xor, BitVec.getMsbD_xor]

theorem reverse_ushiftRight {n : Nat} (x : BitVec n) (k : Nat) : (x >>> k).reverse = x.reverse <<< k := by
  apply BitVec.eq_of_getLsbD_eq
  intro i hi
  simp only [BitVec.getLsbD_reverse, BitVec.getLsbD_shiftLeft, BitVec.getMsbD_ushiftRight, hi, decide_true,
    Bool.true_and]

theorem getLsbD_reverse_of_lt {n i : Nat} (x : BitVec n) (hi : i < n) :
    x.reverse.getLsbD i = x.getLsbD (n - 1 - i) := by
  rw [BitVec.getLsbD_reverse, BitVec.getMsbD_eq_getLsbD, decide_eq_true hi, Bool.true_and]

/-- The low half of a word is the high half of the reversed word. -/
theorem reverse_setWidth16 (b : Byte) : (b.setWidth 16).reverse = b.reverse.setWidth 16 <<< 8 := by
  apply BitVec.eq_of_getLsbD_eq
  intro i hi
  rw [getLsbD_reverse_of_lt _ hi, BitVec.getLsbD_shiftLeft, BitVec.getLsbD_setWidth, BitVec.getLsbD_setWidth]
  by_cases low : i < 8
  · rw [BitVec.getLsbD_of_ge b _ (by omega)]
    simp [low]
  · have place : 8 - 1 - (i - 8) = 16 - 1 - i := by omega
    rw [getLsbD_reverse_of_lt b (by omega), place]
    simp [hi, low, show 15 - i < 16 by omega, show i - 8 < 16 by omega]

/-- The bit that the reflected loop shifts out is the one that the forward loop shifts out. -/
theorem getLsbD_reverse_top (c : Word) : c.reverse.getLsbD 15 = c.getLsbD 0 :=
  getLsbD_reverse_of_lt c (by decide)

theorem reverse_crcPolyReflected : Config.crcPolyReflected.reverse = Config.crcPoly := by decide

theorem reverse_crcShift (c : Word) : (crcShift c).reverse = forwardShift c.reverse := by
  unfold crcShift forwardShift
  rw [getLsbD_reverse_top]
  split
  · rw [reverse_xor, reverse_ushiftRight, reverse_crcPolyReflected]
  · exact reverse_ushiftRight c 1

theorem reverse_crcShifts (n : Nat) (c : Word) : (crcShifts n c).reverse = forwardShifts n c.reverse := by
  induction n generalizing c with
  | zero => rfl
  | succ n ih => rw [crcShifts_succ, ih, reverse_crcShift, forwardShifts]

theorem reverse_crcStep (c : Word) (b : Byte) : (crcStep c b).reverse = forwardStep c.reverse b.reverse := by
  rw [crcStep, reverse_crcShifts, reverse_xor, reverse_setWidth16, forwardStep]

theorem reverse_crcFrom (c : Word) (s : List Byte) :
    (crcFrom c s).reverse = (s.map BitVec.reverse).foldl forwardStep c.reverse := by
  induction s generalizing c with
  | nil => rfl
  | cons b s ih => rw [crcFrom_cons, ih, reverse_crcStep, List.map_cons, List.foldl_cons]

/-- Settles O19: bit reversal carries the shifts, the byte's place and the polynomial over, and keeps the initial
value 0xFFFF. -/
theorem reflectedLoopIsTheReversedForwardLoop : Obligations.ReflectedLoopIsTheReversedForwardLoop := by
  have initial : (0xFFFF#16).reverse = 0xFFFF#16 := by decide
  refine ⟨reverse_crcStep, fun s => ?_⟩
  rw [crc16_eq_crcFrom, reverse_crcFrom, initial]

end Sys2Proof.Machine
end
